-- ==== Sys2Proof/Word.lean ====
section
/-! DEFINITION. The words that cross the links of the part: bytes and texts. -/
namespace Sys2Proof

/-- One byte of the host link, or the eight data bits of one hall line character (R133, R165). -/
abbrev Byte := BitVec 8

/-- A 16-bit CRC register (R134). -/
abbrev Crc := BitVec 16

/-- A text field: symbol codes of the mark alphabet, first symbol first (section 10.1). -/
abbrev Text := List Byte

end Sys2Proof
end

