-- ==== Sys2Proof/Syntax.lean ====
section
/-! DEFINITION. The commands of the part: one constructor for each row of spec/opcode_table.json. -/
namespace Sys2Proof

/-- One character received on the host link: its eight data bits and whether its stop bit was high
(R165; a low stop bit is a framing error, R167). -/
structure HostChar where
  data   : Byte
  stopOk : Bool
deriving DecidableEq, Repr

/-- One character received on the hall line: its data bits, its address flag and whether its stop bit was
high (R133). -/
structure LineChar where
  data    : Byte
  address : Bool
  stopOk  : Bool
deriving DecidableEq, Repr

/-- A template field as DEFINE_TEMPLATE carries it: the field kind's code, the text of a LITERAL and the
counter id of a SERIAL (section 4.2; empty and 0 for the kinds without the parameter). -/
structure RawField where
  kind    : Nat
  text    : Text
  counter : Nat
deriving DecidableEq, Repr

/-- A burn list entry as ADMIT_JOB carries it (section 10.3). -/
structure RawEntry where
  kind     : Nat
  partNo   : Text
  template : Nat
  area     : Nat
  pierces  : Nat
deriving DecidableEq, Repr

/-- The commands. A request of the host carries its tag and its fields as the frame's body gives them (R175):
plain numbers as wide as their encoding, not yet tested against their ranges. An event carries what arrives
with it. -/
inductive Instr where
  -- Hall Supervisor: events on the pins
  | reset (rateHigh stopHeld : Bool)
  | stopAsserted
  | stopReleased
  -- Host Link Interface
  | hostFrameReceived (chars : List HostChar)
  | hostFrameDiscarded (chars : List HostChar)
  | hostByteGapTimeout
  | hostFrameSent
  | unknownRequest (code tag : Nat) (body : List Byte)
  -- Configuration requests
  | setGrade (tag index : Nat) (name : Text) (density rotation factor : Nat)
  | setRunway (tag length separation scrap bayCount : Nat) (bays : List Nat)
  | setLimits (tag jump restore pct absmin minSide minArea : Nat)
  | setStation (tag station address bedL bedW maxT position wearLimit warnLevel parkCode : Nat)
  | setCrane (tag crane address swl tare cm tfull tmin halfSpan limitMin limitMax : Nat)
  | setRack (tag rack address slots maxL maxW maxMass position : Nat)
  | setLine (tag rate window missLimit roundGap : Nat)
  | setPoll (tag position address kind repetition base : Nat)
  -- Hall commands (HALL_COMMAND)
  | commitSetup (tag : Nat)
  | start (tag : Nat)
  | hold (tag : Nat)
  | resume (tag : Nat)
  | freeze (tag : Nat)
  | clearFreeze (tag : Nat)
  | reconfigure (tag : Nat)
  | clearRegister (tag : Nat)
  -- Status, identification and notices
  | readHall (tag : Nat)
  | getStatus (tag : Nat)
  | identify (tag : Nat)
  | setNotices (tag : Nat) (enable disable : List Nat)
  -- Plate Register
  | registerPlate (tag bay grade thickness : Nat) (heat : Text) (len wid corner nl nw : Nat)
  | readPlate (tag plate : Nat)
  | releasePlate (tag plate : Nat)
  | removePlate (tag plate : Nat)
  -- Stock Manager
  | placeRemnant (tag rack slot grade thickness : Nat) (heat : Text) (len wid corner nl nw : Nat)
  | acceptEmpty (tag rack slot : Nat)
  | recheck (tag rack slot : Nat)
  | acceptObject (tag rack slot action : Nat)
  | readRack (tag rack : Nat)
  | findStock (tag grade thickness needL needW rotate count : Nat)
  -- Station Sequencers
  | stationHold (tag station : Nat)
  | stationResume (tag station : Nat)
  | consumablesChanged (tag station : Nat)
  | readStation (tag station : Nat)
  -- Mark Composer
  | defineTemplate (tag template fieldCount : Nat) (fields : List RawField)
  | readTemplate (tag template : Nat)
  | setCounter (tag counter width next : Nat)
  | readCounter (tag counter : Nat)
  -- Job Manager
  | admitJob (tag job station plate nest policy expedite code count declared : Nat)
      (len wid corner nl nw : Nat) (entries : List RawEntry)
  | readJob (tag job : Nat)
  | readQueue (tag station : Nat)
  | cancelJob (tag job : Nat)
  | scrapRemnant (tag station : Nat)
  | skeletonManual (tag station : Nat)
  -- Crane Dispatcher
  | submitMove (tag move kind plate dropKind dropFirst dropSecond expedite wait : Nat)
  | cancelMove (tag move : Nat)
  | readMove (tag move : Nat)
  | readMoves (tag : Nat)
  | readCrane (tag crane : Nat)
  | restoreCrane (tag crane : Nat)
  | runwayResume (tag : Nat)
  -- Hall Line Master
  | readNode (tag address : Nat)
  -- Timer expiries
  | reservationExpired (job : Nat)
  | parkTimerExpired (station : Nat)
  | moveWaitExpired (move : Nat)
  -- Hall line events
  | roundGapExpired
  | lineFrameSent
  | replyWindowExpired
  | reportReceived (chars : List LineChar)
  | stopAllSent
  | broadcastWindowExpired
deriving DecidableEq, Repr

end Sys2Proof
end

