-- ==== Sys2Proof/Decode.lean ====
section
/-! DEFINITION. Decoding. `decodeTableWord` over the table's rows (none gives bits), and the decoding of a host
frame's message code, tag and body into the request it carries (R169, R175). -/
namespace Sys2Proof

/-- The command a word spells by the bits of spec/opcode_table.json. No row of the table gives bits, so no word
spells a command. -/
def decodeTableWord (_nbits _w : Nat) : Option Instr := none

/-- Why a received frame is not handed to an owning block (R169, R151). -/
inductive FrameFault where
  /-- the message code names no request, or is 0x80 or above -/
  | unknownCode (code : Nat)
  /-- the tag is 0 -/
  | zeroTag
  /-- the body's length differs from the form its code requires, first at this offset -/
  | malformed (offset : Nat)
  /-- a HALL_COMMAND of the right form whose command value names none of the eight (R151 check 1) -/
  | undefinedCommand
deriving DecidableEq, Repr

/-- A reader of body bytes: it fails where the body ends before the form does. -/
abbrev BodyReader := StateT (List Byte) Option

/-- A one-byte field (section 10.1). -/
def read1 : BodyReader Nat := fun l =>
  match l with
  | b :: rest => some (b.toNat, rest)
  | [] => none

/-- A two-byte field, high byte first (section 10.1). -/
def read2 : BodyReader Nat := do
  let h ← read1
  let l ← read1
  pure (h * 256 + l)

/-- A four-byte field, high byte first (section 10.1). -/
def read4 : BodyReader Nat := do
  let h ← read2
  let l ← read2
  pure (h * 65536 + l)

/-- `n` items read one after the other. -/
def readMany (item : BodyReader α) : Nat → BodyReader (List α)
  | 0 => pure []
  | n + 1 => do
    let a ← item
    let rest ← readMany item n
    pure (a :: rest)

/-- One raw byte. -/
def readByte : BodyReader Byte := fun l =>
  match l with
  | b :: rest => some (b, rest)
  | [] => none

/-- A text: a length byte, then its symbols (section 10.1). -/
def readText : BodyReader Text := do
  let n ← read1
  readMany readByte n

/-- A list: a count byte, then its items (section 10.1). -/
def readList (item : BodyReader α) : BodyReader (List α) := do
  let n ← read1
  readMany item n

/-- A template field: the kind's code, then the text of a LITERAL or the counter of a SERIAL. A kind the manual
does not name has no parameter (assumption 12). -/
def readField : BodyReader RawField := do
  let kind ← read1
  if kind = 0 then
    let text ← readText
    pure ⟨kind, text, 0⟩
  else if kind = 6 then
    let counter ← read1
    pure ⟨kind, [], counter⟩
  else pure ⟨kind, [], 0⟩

/-- A burn list entry of an admission body (section 10.3). -/
def readEntry : BodyReader RawEntry := do
  let kind ← read1
  let partNo ← readText
  let template ← read1
  let area ← read4
  let pierces ← read1
  pure ⟨kind, partNo, template, area, pierces⟩

/-- The HALL_COMMAND of a command value (section 10.2). -/
def hallCommand (tag value : Nat) : Option Instr :=
  match value with
  | 1 => some (.commitSetup tag)
  | 2 => some (.start tag)
  | 3 => some (.hold tag)
  | 4 => some (.resume tag)
  | 5 => some (.freeze tag)
  | 6 => some (.clearFreeze tag)
  | 7 => some (.reconfigure tag)
  | 8 => some (.clearRegister tag)
  | _ => none

/-- RECONCILE_SLOT by its action (section 10.2): an action other than ACCEPT_EMPTY and RECHECK is handed on as
`acceptObject` with its value, whose rule refuses it (R34). -/
def reconcileSlot (tag rack slot action : Nat) : Instr :=
  match action with
  | 1 => .acceptEmpty tag rack slot
  | 2 => .recheck tag rack slot
  | a => .acceptObject tag rack slot a

/-- The form of each request's body by its message code (R175: the fields in the order in which the owning rule
names them; section 10.2 for the codes, section 10.3 for the admission body). `none` for a code that names no
request. The inner `none` is a HALL_COMMAND whose value names no command. DESIGN CHOICE (notes/assumptions 63): the widths of
the fields that section 10.1 does not name: hs and the minimum area 4 bytes, the minimum side 2, and K, the reply window, the
miss limit, the round gap, the repetition and the base 1. -/
def bodyForm (code tag : Nat) : Option (BodyReader (Option Instr)) :=
  match code with
  | 0x01 => some do
      let index ← read1; let name ← readText; let density ← read2; let rotation ← read1; let factor ← read1
      pure (some (.setGrade tag index name density rotation factor))
  | 0x02 => some do
      let length ← read4; let separation ← read4; let scrap ← read4; let bayCount ← read1
      let bays ← readList read4
      pure (some (.setRunway tag length separation scrap bayCount bays))
  | 0x03 => some do
      let jump ← read4; let restore ← read1; let pct ← read1; let absmin ← read4; let side ← read2
      let area ← read4
      pure (some (.setLimits tag jump restore pct absmin side area))
  | 0x04 => some do
      let station ← read1; let address ← read1; let bedL ← read2; let bedW ← read2; let maxT ← read2
      let position ← read4; let wearLimit ← read2; let warnLevel ← read2; let parkCode ← read1
      pure (some (.setStation tag station address bedL bedW maxT position wearLimit warnLevel parkCode))
  | 0x05 => some do
      let crane ← read1; let address ← read1; let swl ← read4; let tare ← read4; let cm ← read4
      let tfull ← read2; let tmin ← read2; let halfSpan ← read4; let limitMin ← read4; let limitMax ← read4
      pure (some (.setCrane tag crane address swl tare cm tfull tmin halfSpan limitMin limitMax))
  | 0x06 => some do
      let rack ← read1; let address ← read1; let slots ← read1; let maxL ← read2; let maxW ← read2
      let maxMass ← read4; let position ← read4
      pure (some (.setRack tag rack address slots maxL maxW maxMass position))
  | 0x07 => some do
      let rate ← read1; let window ← read1; let missLimit ← read1; let roundGap ← read1
      pure (some (.setLine tag rate window missLimit roundGap))
  | 0x08 => some do
      let position ← read1; let address ← read1; let kind ← read1; let repetition ← read1; let base ← read1
      pure (some (.setPoll tag position address kind repetition base))
  | 0x10 => some do
      let value ← read1
      pure (hallCommand tag value)
  | 0x11 => some (pure (some (.readHall tag)))
  | 0x12 => some (pure (some (.getStatus tag)))
  | 0x13 => some (pure (some (.identify tag)))
  | 0x14 => some do
      let enable ← readList read1; let disable ← readList read1
      pure (some (.setNotices tag enable disable))
  | 0x20 => some do
      let bay ← read1; let grade ← read1; let t ← read2; let heat ← readText; let l ← read2; let w ← read2
      let corner ← read1; let nl ← read2; let nw ← read2
      pure (some (.registerPlate tag bay grade t heat l w corner nl nw))
  | 0x21 => some do let p ← read2; pure (some (.readPlate tag p))
  | 0x22 => some do let p ← read2; pure (some (.releasePlate tag p))
  | 0x23 => some do let p ← read2; pure (some (.removePlate tag p))
  | 0x28 => some do
      let rack ← read1; let slot ← read1; let grade ← read1; let t ← read2; let heat ← readText
      let l ← read2; let w ← read2; let corner ← read1; let nl ← read2; let nw ← read2
      pure (some (.placeRemnant tag rack slot grade t heat l w corner nl nw))
  | 0x29 => some do
      let rack ← read1; let slot ← read1; let action ← read1
      pure (some (reconcileSlot tag rack slot action))
  | 0x2A => some do let r ← read1; pure (some (.readRack tag r))
  | 0x2B => some do
      let grade ← read1; let t ← read2; let nl ← read2; let nw ← read2; let rotate ← read1; let count ← read1
      pure (some (.findStock tag grade t nl nw rotate count))
  | 0x30 => some do let n ← read1; pure (some (.stationHold tag n))
  | 0x31 => some do let n ← read1; pure (some (.stationResume tag n))
  | 0x32 => some do let n ← read1; pure (some (.consumablesChanged tag n))
  | 0x33 => some do let n ← read1; pure (some (.readStation tag n))
  | 0x38 => some do
      let template ← read1; let count ← read1; let fields ← readMany readField count
      pure (some (.defineTemplate tag template count fields))
  | 0x39 => some do let n ← read1; pure (some (.readTemplate tag n))
  | 0x3A => some do
      let counter ← read1; let width ← read1; let next ← read4
      pure (some (.setCounter tag counter width next))
  | 0x3B => some do let n ← read1; pure (some (.readCounter tag n))
  | 0x40 => some do
      let job ← read2; let station ← read1; let plate ← read2; let nest ← read2
      let policy ← read1; let expedite ← read1; let resCode ← read1; let count ← read1
      let declared ← read1; let l ← read2; let w ← read2; let corner ← read1; let nl ← read2; let nw ← read2
      let entries ← readMany readEntry count
      pure (some (.admitJob tag job station plate nest policy expedite resCode count declared l w corner nl nw entries))
  | 0x41 => some do let j ← read2; pure (some (.readJob tag j))
  | 0x42 => some do let n ← read1; pure (some (.readQueue tag n))
  | 0x43 => some do let j ← read2; pure (some (.cancelJob tag j))
  | 0x44 => some do let n ← read1; pure (some (.scrapRemnant tag n))
  | 0x45 => some do let n ← read1; pure (some (.skeletonManual tag n))
  | 0x50 => some do
      let move ← read1; let kind ← read1; let plate ← read2
      let dropKind ← read1; let dropFirst ← read1; let dropSecond ← read1; let expedite ← read1; let wait ← read1
      pure (some (.submitMove tag move kind plate dropKind dropFirst dropSecond expedite wait))
  | 0x51 => some do let m ← read1; pure (some (.cancelMove tag m))
  | 0x52 => some do let m ← read1; pure (some (.readMove tag m))
  | 0x53 => some (pure (some (.readMoves tag)))
  | 0x54 => some do let c ← read1; pure (some (.readCrane tag c))
  | 0x55 => some do let c ← read1; pure (some (.restoreCrane tag c))
  | 0x56 => some (pure (some (.runwayResume tag)))
  | 0x60 => some do let a ← read1; pure (some (.readNode tag a))
  | _ => none

/-- The message code of the request a command is (section 10.2). An event has none: 0. -/
def Instr.requestCode : Instr → Nat
  | .unknownRequest code _ _ => code
  | .setGrade .. => 0x01 | .setRunway .. => 0x02 | .setLimits .. => 0x03 | .setStation .. => 0x04
  | .setCrane .. => 0x05 | .setRack .. => 0x06 | .setLine .. => 0x07 | .setPoll .. => 0x08
  | .commitSetup _ | .start _ | .hold _ | .resume _ | .freeze _ | .clearFreeze _ | .reconfigure _
  | .clearRegister _ => 0x10
  | .readHall _ => 0x11 | .getStatus _ => 0x12 | .identify _ => 0x13 | .setNotices .. => 0x14
  | .registerPlate .. => 0x20 | .readPlate .. => 0x21 | .releasePlate .. => 0x22 | .removePlate .. => 0x23
  | .placeRemnant .. => 0x28
  | .acceptEmpty .. | .recheck .. | .acceptObject .. => 0x29
  | .readRack .. => 0x2A | .findStock .. => 0x2B
  | .stationHold .. => 0x30 | .stationResume .. => 0x31 | .consumablesChanged .. => 0x32 | .readStation .. => 0x33
  | .defineTemplate .. => 0x38 | .readTemplate .. => 0x39 | .setCounter .. => 0x3A | .readCounter .. => 0x3B
  | .admitJob .. => 0x40 | .readJob .. => 0x41 | .readQueue .. => 0x42 | .cancelJob .. => 0x43
  | .scrapRemnant .. => 0x44 | .skeletonManual .. => 0x45
  | .submitMove .. => 0x50 | .cancelMove .. => 0x51 | .readMove .. => 0x52 | .readMoves _ => 0x53
  | .readCrane .. => 0x54 | .restoreCrane .. => 0x55 | .runwayResume _ => 0x56
  | .readNode .. => 0x60
  | .reset .. | .stopAsserted | .stopReleased | .hostFrameReceived _ | .hostFrameDiscarded _ | .hostByteGapTimeout
  | .hostFrameSent | .reservationExpired _ | .parkTimerExpired _ | .moveWaitExpired _ | .roundGapExpired
  | .lineFrameSent | .replyWindowExpired | .reportReceived _ | .stopAllSent | .broadcastWindowExpired => 0

/-- The request that a received frame carries, or the fault R169 finds in it: an unknown code first, then a tag
of 0 (DESIGN CHOICE for a frame with both, notes/assumptions 74), then a body that is not of its code's form, at the first offset where form and frame part (R175: where the
frame ends too soon, or where the form ends before the frame). -/
def decodeRequest (code tag : Nat) (body : List Byte) : Except FrameFault Instr :=
  match bodyForm code tag with
  | none => .error (.unknownCode code)
  | some form =>
    if tag = 0 then .error .zeroTag
    else
      match form body with
      | none => .error (.malformed body.length)
      | some (_, _ :: rest) => .error (.malformed (body.length - (rest.length + 1)))
      | some (none, []) => .error .undefinedCommand
      | some (some c, []) => .ok c

end Sys2Proof
end

