-- ==== Sys2Proof/Config.lean ====
section
/-! DEFINITION. What one part fixes and the manual does not state: the free values of the model. None has a
body, so no proof can see which value the part takes (notes/assumptions says which entry introduces each). -/
namespace Sys2Proof

/-- The optional fields of reply bodies for which section 10.1 states no encoding of "absent": 0 is a legal
value of each of them, and none is a tag, an enumeration or a remaining time. -/
inductive AbsentField where
  /-- the STOP capture time of GET_STATUS and READ_HALL (R164, R173) -/
  | captureTime
  /-- the scrap position of READ_HALL while the runway is unset (R164) -/
  | scrapPosition
  /-- the limit K of READ_HALL while the limits are unset (R164) -/
  | limitK
  /-- the recorded sequence of READ_STATION while there is none (R61) -/
  | recordedSequence
  /-- the next value of a counter with width none (R68, R73) -/
  | counterNext
  /-- Askel of READ_JOB before it has been computed (R82) -/
  | askel
  /-- Mskel of READ_JOB before it has been computed (R82) -/
  | mskel
deriving DecidableEq, Repr

/-- FREE VALUE (assumption 6). What a reply carries in an optional field that is absent and whose absent
encoding section 10.1 does not state. -/
opaque Config.absentValue : AbsentField → Nat

/-- The YES/NO fields of replies that belong to an optional group of fields: both values are legal, and section 10.1 states
nothing for the field while its group is absent. -/
inductive AbsentFlag where
  /-- the scrapped flag of READ_JOB for a job with no close-out (R82) -/
  | scrapped
  /-- the manual flag of READ_JOB for a job with no close-out (R82) -/
  | manual
  /-- the started mark of READ_STATION with no entry in progress (R61) -/
  | startedMark
  /-- the cleared mark of READ_CRANE with no fault (R132) -/
  | clearedMark
deriving DecidableEq, Repr

/-- FREE VALUE (assumption 6). What a reply carries in a YES/NO field whose group is absent. -/
opaque Config.absentFlag : AbsentFlag → Bool

/-- FREE VALUE (assumption 7). The thickness charged to the wear of an unmatched BURN finish (R50, R18) when the
station's bed holds no plate and the station has no active job: the manual names "the thickness of the plate
on the bed" and there is none. The argument is the number of such charges made before. -/
opaque Config.unbeddedThickness : Nat → Nat

/-- FREE VALUE (assumption 24). The four-byte detail value of AREA_EXCEEDS_PLATE (R80 check 9, R176) when the sum of the
declared areas, formed in 64 bits, does not fit four bytes. The argument is the sum. -/
opaque Config.wideSum : Nat → Nat

/-- FREE VALUE (assumption 43). Which of the twelve failure reasons of enumeration 13 the part takes from a node report
whose reason byte is none of their codes (R178). The argument is the byte. -/
opaque Config.reportedReason : Nat → Fin 12

/-- FREE VALUE (assumption 43). Which of the seven node phases of enumeration 23 the part takes from a crane's status block
whose phase byte is none of their codes (R178). The argument is the byte. -/
opaque Config.reportedPhase : Nat → Fin 7

/-- FREE VALUE (assumption 61). How the part takes a byte of a status block that is neither 0 nor 1 where the manual gives
it those two values: a station's outcome and parts-cleared flag, a crane's stopped flag (R178). The argument is the byte. -/
opaque Config.reportedFlag : Nat → Bool

/-- FREE VALUE (assumption 60). What READ_NODE carries as the last taken number of a node whose report has shown a byte
above 15 (R139, R148, R175). The argument is the byte. -/
opaque Config.sentTaken : Nat → Fin 16

/-- FREE VALUE (assumption 60). What READ_CRANE carries as the node tag of a crane whose report has shown a byte of 32 to
254, which is no tag (R107, R132, R175). The argument is the byte. -/
opaque Config.sentTag : Nat → Option (Fin 32)

/-- FREE VALUE (assumption 60). Which of the indices 1 to 48, counted from 0 here, an UNMATCHED ENTRY notice carries for a
finish whose index byte is above 48 (R50, R175, R179). The argument is the byte. -/
opaque Config.sentIndex : Nat → Fin 48

end Sys2Proof
end

