-- ==== Sys2Proof/Machine/State.lean ====
section
/-! DEFINITION. The state of the part: every record, table, queue, counter, timer and pin the manual gives it, and
the state right after reset. Plain data throughout. -/
namespace Sys2Proof.Machine

/-! ## Hall Supervisor -/

/-- The six hall states (chapter Hall States). -/
inductive HallState where | setup | ready | run | holding | held | frozen
deriving DecidableEq, Repr

/-- The cause of a freeze (R149). -/
inductive FreezeCause where | command | stopInput
deriving DecidableEq, Repr

/-- The hall record of R149, the hall clock (R150) and the ALERT output (R163). The stations with an entry in
progress and the number of moves in flight are computed from the station and move records (`Floor.entryStations`,
`Floor.movesInFlight`); broadcast pending stands with the line (`Line.broadcastPending`). -/
structure Supervisor where
  state      : HallState
  frozenFrom : Option HallState
  cause      : Option FreezeCause
  /-- the STOP input after the pin's filter, asserted or not -/
  stopInput  : Bool
  capture    : Option Nat
  /-- milliseconds since the end of reset, below 2^32 -/
  clock      : Nat
  /-- the ALERT output, asserted or released -/
  alert      : Bool
deriving DecidableEq, Repr

/-! ## Configuration tables (section 8.3) -/

/-- A grade table entry (R1). -/
structure Grade where
  index    : Nat
  name     : Text
  density  : Nat
  rotation : Bool
  factor   : Nat
deriving DecidableEq, Repr

/-- The runway configuration (R152): bay b's position is the b-th of `bays`. -/
structure Runway where
  length     : Nat
  separation : Nat
  scrap      : Nat
  bays       : List Nat
deriving DecidableEq, Repr

/-- The hall limits (R153); `absmin` in mass units. -/
structure Limits where
  jump    : Nat
  restore : Nat
  pct     : Nat
  absmin  : Nat
  minSide : Nat
  minArea : Nat
deriving DecidableEq, Repr

/-- A station's configuration (R43). -/
structure StationCfg where
  num       : Nat
  address   : Nat
  bedL      : Nat
  bedW      : Nat
  maxT      : Nat
  position  : Nat
  wearLimit : Nat
  warnLevel : Nat
  parkCode  : Nat
deriving DecidableEq, Repr

/-- A crane's configuration (R102); masses in mass units. -/
structure CraneCfg where
  num      : Nat
  address  : Nat
  swl      : Nat
  tare     : Nat
  cm       : Nat
  tfull    : Nat
  tmin     : Nat
  halfSpan : Nat
  limitMin : Nat
  limitMax : Nat
deriving DecidableEq, Repr

/-- A rack's configuration (R21); `maxMass` in mass units. -/
structure RackCfg where
  num      : Nat
  address  : Nat
  count    : Nat
  maxL     : Nat
  maxW     : Nat
  maxMass  : Nat
  position : Nat
deriving DecidableEq, Repr

/-- The hall line rates (R136). -/
inductive LineRate where | kbit250 | mbit1
deriving DecidableEq, Repr

/-- The line settings (R136). -/
structure LineCfg where
  rate      : LineRate
  window    : Nat
  missLimit : Nat
  roundGap  : Nat
deriving DecidableEq, Repr

/-- The kinds of node (R135). -/
inductive NodeKind where | station | crane | rack
deriving DecidableEq, Repr

/-- A poll table entry (R137). -/
structure PollEntry where
  position   : Nat
  address    : Nat
  kind       : NodeKind
  repetition : Nat
  base       : Nat
deriving DecidableEq, Repr

/-- The configuration tables, each list in ascending order of its number. -/
structure Tables where
  grades   : List Grade
  runway   : Option Runway
  limits   : Option Limits
  stations : List StationCfg
  cranes   : List CraneCfg
  racks    : List RackCfg
  line     : LineCfg
  polls    : List PollEntry
deriving DecidableEq, Repr

/-! ## Plate Register -/

/-- RAW plate or kept REMNANT (section 1.2). -/
inductive PlateKind where | raw | remnant
deriving DecidableEq, Repr

/-- The corners a notch may stand at (section 1.2). -/
inductive Corner where | ne | nw | se | sw
deriving DecidableEq, Repr

/-- A notch: its corner, its length nl and its width nw. -/
structure Notch where
  corner : Corner
  nl     : Nat
  nw     : Nat
deriving DecidableEq, Repr

/-- Where a plate lies (R4). -/
inductive Location where
  | bay (b level : Nat)
  | crane (c : Nat)
  | station (s : Nat)
  | rack (r slot : Nat)
deriving DecidableEq, Repr

/-- What claims a plate (R5). -/
inductive Hold where
  | free
  | reserved (job : Nat)
  | committed (job : Nat)
  | missing
  | quarantined
deriving DecidableEq, Repr

/-- A plate record (section 1.2). -/
structure Plate where
  id           : Nat
  kind         : PlateKind
  grade        : Nat
  thickness    : Nat
  heat         : Text
  len          : Nat
  wid          : Nat
  notch        : Option Notch
  area         : Nat
  mass         : Nat
  generation   : Nat
  parent       : Option Nat
  location     : Location
  hold         : Hold
  registeredAt : Nat
deriving DecidableEq, Repr

/-- An intake bay's stack, bottom first, its incoming count and its pickup claim (R6). -/
structure Bay where
  num      : Nat
  stack    : List Nat
  incoming : Nat
  claim    : Option Nat
deriving DecidableEq, Repr

/-! ## Timers -/

/-- The states of a duration timer (R20). -/
inductive TimerState where | stopped | running | paused
deriving DecidableEq, Repr

/-- A duration timer: its code, its remaining time in ms and its state (R20). -/
structure Timer where
  code      : Nat
  remaining : Nat
  state     : TimerState
deriving DecidableEq, Repr

/-! ## Stock Manager -/

/-- A slot's occupancy as the sensor has confirmed it (section 2.2). -/
inductive Sensed where | empty | occupied | unknown
deriving DecidableEq, Repr

/-- The disagreement standing on a slot (section 2.2). -/
inductive Dispute where | none | missingPlate | unexpectedObject
deriving DecidableEq, Repr

/-- The crane work passing through a slot (section 2.2). -/
inductive Transfer where
  | none
  | inbound (tag : Nat)
  | outbound (tag : Nat)
  | verifyIn
  | verifyOut
deriving DecidableEq, Repr

/-- A slot record (section 2.2). The candidate is EMPTY or OCCUPIED when present. -/
structure Slot where
  num       : Nat
  register  : Option Nat
  sensed    : Sensed
  candidate : Option Sensed
  agree     : Nat
  dispute   : Dispute
  transfer  : Transfer
  recheck   : Bool
deriving DecidableEq, Repr

/-- A rack's link status, UP or LOST (R23), and its slots. -/
structure Rack where
  num   : Nat
  up    : Bool
  slots : List Slot
deriving DecidableEq, Repr

/-! ## Orders (sections 3.4, 6.2, 10.4) -/

/-- A place a move picks up at or sets down at (R107). -/
inductive Place where
  | bay (b : Nat)
  | slot (r n : Nat)
  | station (s : Nat)
  | scrap
  | position (x : Nat)
deriving DecidableEq, Repr

/-- The mode of a MOVE order (section 6.2). -/
inductive MoveMode where | transfer | deliver | travel
deriving DecidableEq, Repr

/-- The numbered orders. A MARK has its text from the event at which it enters the node's queue (R74); in an
outbox its text is empty. -/
inductive Order where
  | loadProgram (nest : Nat)
  | mark (index : Nat) (text : Text)
  | burn (index pierces thickness : Nat)
  | park
  | unpark
  | setLimit (lower upper : Nat)
  | move (tag : Nat) (mode : MoveMode) (pickup : Option (Place × Nat)) (drop : Place × Nat)
  | continue (tag : Nat)
  | lowerBack (tag : Nat)
  | resume
deriving DecidableEq, Repr

/-! ## Station Sequencers -/

/-- The station states (section 3.3). -/
inductive StationState where
  | vacant | receiving | loaded | marking | burning | holdPending | held | clearing
deriving DecidableEq, Repr

/-- The phase of the active job, and the kind of an entry order (section 3.2). -/
inductive Phase where | mark | burn
deriving DecidableEq, Repr

/-- The six hold reasons (section 3.5). -/
inductive HoldReason where | host | hall | frozen | consumables | serialExhausted | nodeLost
deriving DecidableEq, Repr

/-- A hold set: which of the six reasons it holds. -/
structure HoldSet where
  host            : Bool := false
  hall            : Bool := false
  frozen          : Bool := false
  consumables     : Bool := false
  serialExhausted : Bool := false
  nodeLost        : Bool := false
deriving DecidableEq, Repr

/-- The entry in progress (section 3.2), with the mark's text and the serial values drawn for it (R74). -/
structure InProgress where
  index   : Nat
  kind    : Phase
  number  : Nat
  started : Bool
  text    : Text
  serials : List (Nat × Nat)
deriving DecidableEq, Repr

/-- The close-out condition of a station (section 3.2). -/
inductive CloseCond where | none | stockFull | overweight | liftFailed
deriving DecidableEq, Repr

/-- A station record (section 3.2). -/
structure Station where
  num       : Nat
  state     : StationState
  bed       : Option Nat
  claim     : Option Nat
  job       : Option Nat
  phase     : Option Phase
  entry     : Option InProgress
  hold      : HoldSet
  exhausted : Option Nat
  wear      : Nat
  park      : Timer
  parked    : Bool
  outbox    : List Order
  up        : Bool
  fault     : Option Nat
  sequence  : Option Nat
  cond      : CloseCond
deriving DecidableEq, Repr

/-! ## Mark Composer -/

/-- A template field (section 4.2). -/
inductive Field where
  | literal (text : Text)
  | job
  | partNo
  | heat
  | grade
  | thick
  | serial (counter : Nat)
  | station
deriving DecidableEq, Repr

/-- A defined template (R63). -/
structure Template where
  id     : Nat
  fields : List Field
deriving DecidableEq, Repr

/-- Where the last issued value of a counter went (R68). -/
structure Draw where
  station : Nat
  job     : Nat
  entry   : Nat
deriving DecidableEq, Repr

/-- A serial counter (R68). `next` is absent while the counter has no width. -/
structure Counter where
  id        : Nat
  width     : Option Nat
  next      : Option Nat
  last      : Option Nat
  exhausted : Bool
  lastDraw  : Option Draw
deriving DecidableEq, Repr

/-! ## Job Manager -/

/-- Why an entry or a move failed (enumeration 13). -/
inductive FailReason where
  | arcLost | pierceFailed | heightFault | gasFault | markerFault | operatorAbort | stopped | linkLost | markFailed
  | loadMismatch | overload | waitExpired
deriving DecidableEq, Repr

/-- The kinds of burn list entry (section 5.1). -/
inductive EntryKind where | part | separation
deriving DecidableEq, Repr

/-- The outcome of a burn list entry (section 5.1). -/
inductive EntryOutcome where
  | pending
  | marked
  | done
  | failed (reason : FailReason)
  | notAttempted
deriving DecidableEq, Repr

/-- A burn list entry (section 5.1); its index is its place in the list, from 1. -/
structure Entry where
  kind     : EntryKind
  partNo   : Text
  template : Nat
  area     : Nat
  pierces  : Nat
  outcome  : EntryOutcome
deriving DecidableEq, Repr

/-- What a failed entry does to its job (section 5.1). -/
inductive Policy where | stop | skip
deriving DecidableEq, Repr

/-- The job states (section 5.1.1). CLOSED is not held: the record is removed at that event (R79). -/
inductive JobState where | queued | staging | ready | active | closing
deriving DecidableEq, Repr

/-- The outcome of a job (R100). -/
inductive JobOutcome where
  | complete | stoppedOnFailure | cancelled | lapsed | materialLost | materialRejected
deriving DecidableEq, Repr

/-- The close-out steps that a job waits at (R92); END is passed at one event (R99). -/
inductive CloseStep where | waitParts | store | skeleton
deriving DecidableEq, Repr

/-- The close-out of a job (section 5.6). `outcome` is the outcome it will close with (R88, R89). -/
structure CloseOut where
  step      : CloseStep
  storeTag  : Option Nat
  skelTag   : Option Nat
  remnant   : Option Nat
  scrapped  : Bool
  askel     : Option Nat
  mskel     : Option Nat
  manual    : Bool
  outcome   : JobOutcome
deriving DecidableEq, Repr

/-- The remnant declaration of a job (section 5.1). -/
structure RemnantDecl where
  len   : Nat
  wid   : Nat
  notch : Option Notch
  area  : Nat
  mass  : Nat
deriving DecidableEq, Repr

/-- A job record (section 5.1). -/
structure Job where
  id            : Nat
  station       : Nat
  plate         : Nat
  area          : Nat
  thickness     : Nat
  grade         : Nat
  mass          : Nat
  nest          : Nat
  policy        : Policy
  expedite      : Bool
  timer         : Timer
  entries       : List Entry
  remnant       : Option RemnantDecl
  state         : JobState
  stagingTag    : Option Nat
  cancelPending : Bool
  firstFailure  : Option (Nat × FailReason)
  closeOut      : Option CloseOut
  admittedAt    : Nat
deriving DecidableEq, Repr

/-! ## Crane Dispatcher -/

/-- What a crane is doing for the dispatcher (R103). -/
inductive Activity where | idle | bound | moving
deriving DecidableEq, Repr

/-- The health of a crane (R103). -/
inductive CraneHealth where | offline | normal | degraded | faulted
deriving DecidableEq, Repr

/-- The phases a crane node reports (section 6.2). -/
inductive NodePhase where
  | idle | toPickup | atPickup | loadHeld | toDrop | atDrop | setDown
deriving DecidableEq, Repr

/-- An extent grant (R116). -/
structure Grant where
  lo : Nat
  hi : Nat
deriving DecidableEq, Repr

/-- A crane record (R103). `fresh` holds while the next position is tested against the runway alone (R104). -/
structure Crane where
  num        : Nat
  position   : Option Nat
  fresh      : Bool
  activity   : Activity
  health     : CraneHealth
  up         : Bool
  good       : Nat
  grant      : Option Grant
  bound      : Option Nat
  nodePhase  : NodePhase
  nodeTag    : Option Nat
  load       : Nat
  stopped    : Bool
  fault      : Option Nat
  cleared    : Bool
  stopFrozen : Bool
  stopBreach : Bool
  outbox     : List Order
deriving DecidableEq, Repr

/-- Who made a move (R107). -/
inductive Origin where
  | host
  | job (id : Nat)
  | yield
deriving DecidableEq, Repr

/-- The move kinds (R107). -/
inductive MoveKind where
  | plateIn | remnantFetch | remnantStore | skeletonOut | remnantScrap | rackTransfer | bayTransfer | yield
deriving DecidableEq, Repr

/-- What a move carries (R107). -/
inductive Load where
  | plate (id : Nat)
  | skeleton (station mskel thickness grade : Nat)
  | none
deriving DecidableEq, Repr

/-- The phases of a move in a crane's hands (section 6.6). -/
inductive MovePhase where | toPickup | liftCheck | toDrop | setDownWait
deriving DecidableEq, Repr

/-- The causes of a suspension (R107). -/
structure SuspendSet where
  frozen   : Bool := false
  breach   : Bool := false
  degraded : Bool := false
  faulted  : Bool := false
deriving DecidableEq, Repr

/-- The state of a move that is present (R107): DONE and FAILED are passed at the event that removes the record. -/
inductive MoveState where
  | waiting
  | bound
  | phase (p : MovePhase)
  | suspended (p : MovePhase) (causes : SuspendSet)
deriving DecidableEq, Repr

/-- A move record (R107). -/
structure Move where
  tag         : Nat
  origin      : Origin
  kind        : MoveKind
  load        : Load
  pickup      : Option Place
  drop        : Place
  expedite    : Bool
  wait        : Timer
  submitted   : Nat
  crane       : Option Nat
  state       : MoveState
  causedYield : Option Nat
  waitingFor  : Option Nat
  expired     : Bool
deriving DecidableEq, Repr

/-! ## Hall Line Master -/

/-- A node's health (R139). -/
inductive NodeHealth where | up | lost | wrongKind
deriving DecidableEq, Repr

/-- A numbered order in a node's queue (R139). -/
structure QueuedOrder where
  order  : Order
  number : Nat
  sent   : Bool
deriving DecidableEq, Repr

/-- A node record (R139). -/
structure Node where
  address      : Nat
  kind         : NodeKind
  health       : NodeHealth
  miss         : Nat
  lastTaken    : Nat
  reportedKind : Option NodeKind
  stop         : Bool
  orders       : List QueuedOrder
  lastAssigned : Nat
  unsettled    : List Nat
deriving DecidableEq, Repr

/-- A visit in progress (R135, R141): the node's address, whether its frame carried a STOP, the frame as sent
on the line, and whether its last character has gone (the part is then awaiting the report). -/
structure Visit where
  address  : Nat
  stop     : Bool
  frame    : List Byte
  awaiting : Bool
deriving DecidableEq, Repr

/-- The STOP_ALL broadcast on the line (R147): none, being sent, or its reply window running. -/
inductive Broadcast where | none | sending | window
deriving DecidableEq, Repr

/-- The hall line (R138, R147): the round counter, the poll positions still due in the round, the visit in
progress, whether the round gap runs, the broadcast, and the node records in ascending address. -/
structure Line where
  round            : Nat
  due              : List Nat
  visit            : Option Visit
  gap              : Bool
  broadcast        : Broadcast
  broadcastPending : Bool
  nodes            : List Node
deriving DecidableEq, Repr

/-- The records of the hall floor: what the Plate Register, the Stock Manager, the Station Sequencers, the Mark
Composer's counters, the Job Manager, the Crane Dispatcher and the Hall Line Master hold at run time. Jobs stand
in admission order but for R83's move to the head: a station's queue is the jobs of that station in this order. -/
structure Floor where
  plates        : List Plate
  nextId        : Nat
  bays          : List Bay
  racks         : List Rack
  stations      : List Station
  counters      : List Counter
  jobs          : List Job
  cranes        : List Crane
  moves         : List Move
  runwayStopped : Bool
  line          : Line
  /-- the MODEL's own: how many free thicknesses have been taken (assumption 7) -/
  freeTaken     : Nat
deriving DecidableEq, Repr

/-! ## Notices (sections 9.3, 10.5) -/

/-- The ten kinds of notice (section 9.3). -/
inductive NoticeKind where | hall | node | station | entry | job | move | crane | slot | wear | serial
deriving DecidableEq, Repr

/-- The causes of a HALL notice (R151, R179): a hall command by its value, or one of the others. -/
inductive HallCause where
  | command (value : Nat)
  | stopInput | workFinished | stopAsserted | stopReleased
deriving DecidableEq, Repr

/-- The causes of a NODE notice (R148). -/
inductive NodeCause where | missLimit | report | wrongKind
deriving DecidableEq, Repr

/-- The causes of a STATION notice (R62). -/
inductive StationCause where | stateChange | reasonAdded | reasonRemoved | fault | faultCleared
deriving DecidableEq, Repr

/-- The causes of an ENTRY notice (R50, R179). -/
inductive EntryCause where | started | result | unmatched | withdrawn
deriving DecidableEq, Repr

/-- The causes of a JOB notice (R101). -/
inductive JobCause where
  | admitted | staging | ready | active | cancelDeferred | closeOut | stockFull | overweight | liftFailed | closed
deriving DecidableEq, Repr

/-- The causes of a MOVE notice (R132). -/
inductive MoveCause where
  | created | bound | unbound | started | lifted | suspended | resumed | done | failed | deleted
deriving DecidableEq, Repr

/-- The causes of a CRANE notice (R132). -/
inductive CraneCause where | health | faultCleared | breach | runwayResumed
deriving DecidableEq, Repr

/-- The causes of a SLOT notice (R42). -/
inductive SlotCause where | sensorChange | verifyIn | verifyOut | recheck | placeRemnant | acceptEmpty
deriving DecidableEq, Repr

/-- The types of a WEAR notice (R54). -/
inductive WearCause where | warn | limit
deriving DecidableEq, Repr

/-- The causes of a SERIAL notice with what each adds (R78). -/
inductive SerialCause where
  | exhausted (d : Draw)
  | blocked (d : Draw)
  | set (released : List Nat)
deriving DecidableEq, Repr

/-- The JOB_CLOSED report (R100). -/
structure JobReport where
  plate        : Nat
  outcome      : JobOutcome
  done         : Nat
  failed       : Nat
  notAttempted : Nat
  firstFailure : Option (Nat × FailReason)
  remnant      : Option Nat
  scrapped     : Bool
  manual       : Bool
  figures      : Option (Nat × Nat)
deriving DecidableEq, Repr

/-- How a move that left the queue ended, as a MOVE notice shows it; `none` while it is present. -/
inductive MoveEnd where
  | done
  | failed (reason : FailReason)
deriving DecidableEq, Repr

/-- What a notice tells (R179), beside the hall clock. -/
inductive NoticeBody where
  | hall (cause : HallCause) (old new : HallState) (stopInput : Bool) (capture : Option Nat)
  | node (cause : NodeCause) (address : Nat) (kind : NodeKind) (health : NodeHealth) (reported : Option NodeKind)
      (waiting : Nat)
  | station (cause : StationCause) (num : Nat) (state : StationState) (hold : HoldSet) (reason : Option HoldReason)
      (job : Option Nat) (fault : Option Nat) (cond : CloseCond)
  | entry (cause : EntryCause) (num : Nat) (job : Option Nat) (index : Nat) (kind : Option Phase)
      (outcome : Option Bool) (reason : Option FailReason) (arc pierces : Nat) (text : Text)
      (serials : List (Nat × Nat))
  | job (cause : JobCause) (id station : Nat) (state : Option JobState) (remnant : Option Nat) (mskel : Option Nat)
      (report : Option JobReport)
  | move (cause : MoveCause) (m : Move) (ended : Option MoveEnd) (measured tol : Nat) (result : Option FailReason)
      (pickupAt : Option Nat) (dropAt : Nat)
  | crane (cause : CraneCause) (num : Nat) (health : CraneHealth) (position : Option Nat) (grant : Option Grant)
  | slot (cause : SlotCause) (rack num : Nat) (dispute : Dispute) (register : Option Nat) (sensed : Sensed)
      (transfer : Transfer)
  | wear (cause : WearCause) (station wear : Nat)
  | serial (cause : SerialCause) (c : Counter)
deriving DecidableEq, Repr

/-- A notice: the hall clock at its event and what it tells (R171). -/
structure Notice where
  clock : Nat
  body  : NoticeBody
deriving DecidableEq, Repr

/-! ## Replies (sections 9.2, 10.3) -/

/-- The refusal codes (section 10.3). -/
inductive RefusalCode where
  | notAccepted | busy | badFormat | outOfRange | unknownItem | duplicate | full | bayFull | notTop | notFree | inUse
  | wrongLocation | plateTooLarge | areaExceedsPlate | remnantBelowMinimum | remnantOutsidePlate | notLiftable
  | badList | templateTooLong | counterBackwards | sensedEmpty | tagInUse | inMotion | jobOwned | active | closing
  | breachPersists | stopActive | craneUnknown | cranesTooClose | overrun
  | noStation | noCrane | addressClash | noPollEntry | kindMismatch | pollEntryUnused | craneRepetition | runwayUnset
  | craneLimits | craneOrder | tareNotBelowSwl | positionUnreachable | limitsUnset
deriving DecidableEq, Repr

/-- The detail items (section 10.3). -/
inductive Detail where
  | none
  | field (ordinal : Nat)
  | offset (n : Nat)
  | messageCode (code : Nat)
  | enumerated (number code : Nat)
  | number (n : Nat)
  | plate (id : Nat)
  | job (id : Nat)
  | move (tag : Nat)
  | station (n : Nat)
  | crane (n : Nat)
  | rackSlot (rack slot : Nat)
  | bay (b : Nat)
  | template (id : Nat)
  | counter (id : Nat)
  | address (a : Nat)
  | pollPosition (p : Nat)
  | grade (index : Nat)
  | place (kind first second : Nat)
  | entry (index : Nat)
  | location (kind first second : Nat)
deriving DecidableEq, Repr

/-- An answer to a request: accepted with its result body, or refused with a code and a detail item (R169). -/
inductive Reply where
  | accepted (body : List Byte)
  | refused (code : RefusalCode) (detail : Detail)
deriving DecidableEq, Repr

/-! ## Host Link Interface -/

/-- A request in the input queue (R168): its frame, and its reply once it is SERVED (WAITING before). -/
structure Request where
  code  : Nat
  tag   : Nat
  body  : List Byte
  reply : Option Reply
deriving DecidableEq, Repr

/-- A tag of the overrun list, with the dropped frame's message code (R168). -/
structure Overrun where
  code : Nat
  tag  : Nat
deriving DecidableEq, Repr

/-- What the transmitter is sending (R170). -/
inductive TxKind where | overrun | reply | notice
deriving DecidableEq, Repr

/-- The frame being sent on the host link (R170). -/
structure TxFrame where
  kind  : TxKind
  bytes : List Byte
deriving DecidableEq, Repr

/-- The Host Link Interface (R165). `rx` holds the bytes of the frame in assembly, its start byte first, and is
empty while the receiver hunts. `rateHigh` is the RATE strap as latched at reset. -/
structure HostLink where
  rateHigh    : Bool
  rx          : List Byte
  input       : List Request
  overruns    : List Overrun
  notices     : List Notice
  enabled     : List NoticeKind
  noticesLost : Bool
  lostCount   : Nat
  overrunLost : Bool
  discarded   : Nat
  tx          : Option TxFrame
deriving DecidableEq, Repr

/-! ## The part -/

/-- Everything but the host link: the configuration tables, the templates, the hall record and the floor. -/
structure Hall where
  cfg       : Tables
  templates : List Template
  sup       : Supervisor
  fl        : Floor
deriving DecidableEq, Repr

/-- The part and the queue of commands waiting for it. `pending` is the MODEL's own field. -/
structure State where
  hall    : Hall
  link    : HostLink
  pending : List Instr
deriving DecidableEq, Repr

/-- No command of this model faults: the manual names no event at which the part stops. -/
inductive Fault where
deriving DecidableEq, Repr

/-- Why a command is refused without a meaning. -/
inductive Refusal where
  /-- Raised by `exec` alone, for a command whose meaning is not written yet. Safe: the machine stops. No arm of
  this model raises it. -/
  | notModelled (mnemonic : String)
deriving DecidableEq, Repr

/-! ## Reset -/

/-- The line settings after reset (R136). -/
def LineCfg.initial : LineCfg := ⟨.kbit250, 5, 3, 10⟩

/-- No configuration: every table empty, the runway and the limits unset (R149). -/
def Tables.empty : Tables := ⟨[], none, none, [], [], [], LineCfg.initial, []⟩

/-- A counter that has never been set (R68). -/
def Counter.unset (id : Nat) : Counter := ⟨id, none, none, none, false, none⟩

/-- The line as reset and every entry to SETUP leave it: silent, the driver released, round 0 (R138). -/
def Line.silent : Line := ⟨0, [], none, false, .none, false, []⟩

/-- The floor after reset: every table empty and the next-id counter 1 (R2, R3). -/
def Floor.empty : Floor :=
  { plates := [], nextId := 1, bays := [], racks := [], stations := [],
    counters := [1, 2, 3, 4, 5, 6, 7, 8].map Counter.unset,
    jobs := [], cranes := [], moves := [], runwayStopped := false, line := Line.silent, freeTaken := 0 }

/-- The hall record after reset with the STOP input released (R149). -/
def Supervisor.initial : Supervisor := ⟨.setup, none, none, false, none, 0, false⟩

/-- Every kind of notice, in the order of section 9.3. -/
def NoticeKind.all : List NoticeKind :=
  [.hall, .node, .station, .entry, .job, .move, .crane, .slot, .wear, .serial]

/-- The Host Link Interface after reset (R165). -/
def HostLink.initial (rateHigh : Bool) : HostLink :=
  { rateHigh := rateHigh, rx := [], input := [], overruns := [], notices := [], enabled := NoticeKind.all,
    noticesLost := false, lostCount := 0, overrunLost := false, discarded := 0, tx := none }

/-- The blocks but the host link after reset (R149). -/
def Hall.initial : Hall := ⟨Tables.empty, [], Supervisor.initial, Floor.empty⟩

/-- The part right after reset, with the RATE strap low and the STOP input released (assumption 1). -/
def State.reset : State := ⟨Hall.initial, HostLink.initial false, []⟩

end Sys2Proof.Machine
end

