-- ==== Sys2Proof/Machine/Arith.lean ====
section
/-! DEFINITION. The hall arithmetic (section 1.7), duration codes and timers (section 1.8). -/
namespace Sys2Proof.Machine

/-- The area of a shape: L × W, less the notch (R11). -/
def areaOf (len wid : Nat) (notch : Option Notch) : Nat :=
  match notch with
  | some n => len * wid - n.nl * n.nw
  | none => len * wid

/-- The mass formula: A × T × D rounded to the nearest mass unit, a half upward (R12). -/
def massOf (area thickness density : Nat) : Nat :=
  (area * thickness * density + 500000000) / 1000000000

/-- The magnet capacity of a crane for a thickness and a magnet factor (R13). -/
def kmag (c : CraneCfg) (thickness factor : Nat) : Nat :=
  if thickness < c.tmin ∨ factor = 0 then 0
  else c.cm * min thickness c.tfull * factor / (c.tfull * 100)

/-- The allowance Q of a crane for a load (R14). -/
def allowance (c : CraneCfg) (thickness factor : Nat) : Nat :=
  min (c.swl - c.tare) (kmag c thickness factor)

/-- The lift check (R14). -/
def liftPasses (c : CraneCfg) (mass thickness factor : Nat) : Bool :=
  mass ≤ allowance c thickness factor

/-- The load-cell tolerance for a mass (R15). -/
def tolerance (absmin pct mass : Nat) : Nat := max absmin (mass * pct / 100)

/-- The absolute difference of two masses. -/
def massGap (a b : Nat) : Nat := (a - b) + (b - a)

/-- The load-cell check: `none` when it passes, OVERLOAD tested before LOAD_MISMATCH (R15). -/
def loadCell (measured allowed mass tol : Nat) : Option FailReason :=
  if allowed < measured then some .overload
  else if tol < massGap measured mass then some .loadMismatch
  else none

/-- The notch ranges of section 1.2 against a shape's L and W. -/
def notchFits (len wid : Nat) (n : Notch) : Bool :=
  decide (100 ≤ n.nl ∧ n.nl + 100 ≤ len ∧ 100 ≤ n.nw ∧ n.nw + 100 ≤ wid)

/-- The pierce cost: 4 + ceil(T / 50) (R18). -/
def pierceCost (thickness : Nat) : Nat := 4 + (thickness + 49) / 50

/-- The wear after a burn result: the increment added, saturating at 65,535 (R18). -/
def wearAfter (old thickness pierces arc : Nat) : Nat :=
  min 65535 (old + (pierces * pierceCost thickness + arc))

/-- The duration of a code in ms; 0 for the code that does not expire (R19). -/
def durationMs (code : Nat) : Nat :=
  if code ≤ 100 then code * 6000
  else if code ≤ 200 then 600000 + (code - 100) * 60000
  else 6600000 + (code - 200) * 1800000

/-! ## Duration timers (R20) -/

/-- A timer that has not been started. -/
def Timer.idle (code : Nat) : Timer := ⟨code, 0, .stopped⟩

/-- A start: the code's duration loaded, RUNNING, or PAUSED while the hall is FROZEN (R20). -/
def Timer.start (hall : HallState) (code : Nat) : Timer :=
  ⟨code, durationMs code, if hall = .frozen then .paused else .running⟩

/-- A stop: STOPPED, the remaining time discarded (R20). -/
def Timer.stop (t : Timer) : Timer := ⟨t.code, 0, .stopped⟩

/-- The hall enters FROZEN: a RUNNING timer becomes PAUSED (R20). -/
def Timer.pause (t : Timer) : Timer := if t.state = .running then { t with state := .paused } else t

/-- The hall leaves FROZEN: a PAUSED timer becomes RUNNING (R20). -/
def Timer.unpause (t : Timer) : Timer := if t.state = .paused then { t with state := .running } else t

/-- One millisecond: a RUNNING timer with a duration counts down (R20). -/
def Timer.tick (t : Timer) : Timer :=
  if t.state = .running then { t with remaining := t.remaining - 1 } else t

/-- A RUNNING timer whose code has a duration can expire (R20: a stopped or paused timer, or one with code 0,
does not). -/
def Timer.canExpire (t : Timer) : Bool := t.state == .running && t.code != 0

/-- This millisecond takes the remaining time to 0, or it stood there already. -/
def Timer.runsOut (t : Timer) : Bool := t.canExpire && decide (t.remaining ≤ 1)

/-- The remaining time as records report it: none while the timer does not run or has code 0 (R20,
section 10.1). -/
def Timer.reported (t : Timer) : Option Nat :=
  if t.state = .stopped ∨ t.code = 0 then none else some t.remaining

end Sys2Proof.Machine
end

