-- ==== Sys2Proof/Machine/Ops.lean ====
section
/-! DEFINITION. The named operations over the part's records: keyed tables, the working state of one event, and
the changes to plates, bays and slots that several rules share. -/
namespace Sys2Proof.Machine

/-! ## Keyed tables: lists in ascending order of a number -/

/-- The entry with a number. -/
def Table.get (key : α → Nat) (n : Nat) (l : List α) : Option α := l.find? fun a => key a == n

/-- The entry with a number changed by `f`; every other entry as it was. -/
def Table.amend (key : α → Nat) (n : Nat) (f : α → α) (l : List α) : List α :=
  l.map fun a => if key a = n then f a else a

/-- The table without the entry with a number. -/
def Table.drop (key : α → Nat) (n : Nat) (l : List α) : List α := l.filter fun a => key a != n

/-- The table with an entry put in, in place of one with the same number. -/
def Table.put (key : α → Nat) (x : α) : List α → List α
  | [] => [x]
  | a :: l =>
    if key x < key a then x :: a :: l
    else if key x = key a then x :: l
    else a :: Table.put key x l

/-! ## What an event reads and what it changes -/

/-- What the floor's rules read and never write: the hall state and the clock as they stand at the event, the
configuration tables and the templates. -/
structure Ctx where
  hall      : HallState
  clock     : Nat
  cfg       : Tables
  templates : List Template

/-- The working state of one event: the floor, the notices raised so far in order, and what is still to be told at
this event: a scan of the dispatcher (R114), jobs waiting on a freed slot or tag (R94), whether a slot-freed event (R31)
is among these, an examination of the station queues (R83). -/
structure Work where
  fl      : Floor
  out     : List Notice
  scan    : Bool
  serve   : Bool
  examine : Bool
  freed   : Bool

/-- The start of an event on a floor. -/
def Work.begin (fl : Floor) : Work := ⟨fl, [], false, false, false, false⟩

/-- A notice raised at this event, with the hall clock (R171). -/
def Work.note (x : Ctx) (b : NoticeBody) (w : Work) : Work := { w with out := w.out ++ [⟨x.clock, b⟩] }

/-- A scan is due at this event (R114). -/
def Work.wantScan (w : Work) : Work := { w with scan := true }
/-- The jobs waiting on a tag are due to be served (R94). -/
def Work.wantServe (w : Work) : Work := { w with serve := true }
/-- The jobs waiting on a slot are due to be served too: a slot-freed event (R31, R94). -/
def Work.slotFreed (w : Work) : Work := { w with serve := true, freed := true }
/-- The station queues are due to be examined (R83). -/
def Work.wantExamine (w : Work) : Work := { w with examine := true }

/-! ## Reading the records -/

/-- The grade entry with an index (R1). -/
def Tables.grade? (cfg : Tables) (i : Nat) : Option Grade := Table.get Grade.index i cfg.grades
/-- The density of a grade; every plate's grade is defined (R1). -/
def Tables.density (cfg : Tables) (i : Nat) : Nat := ((cfg.grade? i).map Grade.density).getD 0
/-- The magnet factor of a grade. -/
def Tables.factor (cfg : Tables) (i : Nat) : Nat := ((cfg.grade? i).map Grade.factor).getD 0
/-- The configuration of a station (R43). -/
def Tables.station? (cfg : Tables) (n : Nat) : Option StationCfg := Table.get StationCfg.num n cfg.stations
/-- The configuration of a crane (R102). -/
def Tables.crane? (cfg : Tables) (n : Nat) : Option CraneCfg := Table.get CraneCfg.num n cfg.cranes
/-- The configuration of a rack (R21). -/
def Tables.rack? (cfg : Tables) (n : Nat) : Option RackCfg := Table.get RackCfg.num n cfg.racks
/-- The runway length; 0 while the runway is unset. -/
def Tables.runwayLength (cfg : Tables) : Nat := (cfg.runway.map Runway.length).getD 0
/-- The separation S; 0 while the runway is unset. -/
def Tables.separation (cfg : Tables) : Nat := (cfg.runway.map Runway.separation).getD 0

/-- The runway position of a place (R107). -/
def Tables.placeAt (cfg : Tables) : Place → Option Nat
  | .bay b => if b = 0 then none else cfg.runway.bind fun r => r.bays[b - 1]?
  | .slot r _ => (cfg.rack? r).map RackCfg.position
  | .station s => (cfg.station? s).map StationCfg.position
  | .scrap => cfg.runway.map Runway.scrap
  | .position x => some x

/-- The plate record with an id. -/
def Floor.plate? (fl : Floor) (id : Nat) : Option Plate := Table.get Plate.id id fl.plates
/-- The bay with a number. -/
def Floor.bay? (fl : Floor) (b : Nat) : Option Bay := Table.get Bay.num b fl.bays
/-- The rack record with a number. -/
def Floor.rack? (fl : Floor) (r : Nat) : Option Rack := Table.get Rack.num r fl.racks
/-- The slot record of a rack. -/
def Floor.slot? (fl : Floor) (r n : Nat) : Option Slot := (fl.rack? r).bind fun k => Table.get Slot.num n k.slots
/-- The station record with a number. -/
def Floor.station? (fl : Floor) (n : Nat) : Option Station := Table.get Station.num n fl.stations
/-- The serial counter with an id. -/
def Floor.counter? (fl : Floor) (c : Nat) : Option Counter := Table.get Counter.id c fl.counters
/-- The job present with an id. -/
def Floor.job? (fl : Floor) (j : Nat) : Option Job := Table.get Job.id j fl.jobs
/-- The crane record with a number. -/
def Floor.crane? (fl : Floor) (c : Nat) : Option Crane := Table.get Crane.num c fl.cranes
/-- The move present with a tag. -/
def Floor.move? (fl : Floor) (t : Nat) : Option Move := Table.get Move.tag t fl.moves
/-- The node record at an address. -/
def Floor.node? (fl : Floor) (a : Nat) : Option Node := Table.get Node.address a fl.line.nodes

/-- A move bound to a crane: BOUND, in a phase or SUSPENDED (R127). -/
def Move.inFlight (m : Move) : Bool := m.state != .waiting

/-- The number of moves BOUND, in a phase or SUSPENDED, yields included (R127, R149). -/
def Floor.movesInFlight (fl : Floor) : Nat := (fl.moves.filter Move.inFlight).length

/-- The stations with an entry in progress (R149). -/
def Floor.entryStations (fl : Floor) : List Nat :=
  (fl.stations.filter fun st => st.entry.isSome).map Station.num

/-- The jobs of a station's queue, in queue order (R79). -/
def Floor.queue (fl : Floor) (n : Nat) : List Job := fl.jobs.filter fun j => j.station == n

/-- The least number of a list. -/
def least : List Nat → Option Nat
  | [] => none
  | a :: l => some (l.foldl min a)

/-! ## Changing the records -/

/-- The station record with a number changed. -/
def Work.onStation (n : Nat) (f : Station → Station) (w : Work) : Work :=
  { w with fl := { w.fl with stations := Table.amend Station.num n f w.fl.stations } }
/-- The job record with an id changed. -/
def Work.onJob (j : Nat) (f : Job → Job) (w : Work) : Work :=
  { w with fl := { w.fl with jobs := Table.amend Job.id j f w.fl.jobs } }
/-- The crane record with a number changed. -/
def Work.onCrane (c : Nat) (f : Crane → Crane) (w : Work) : Work :=
  { w with fl := { w.fl with cranes := Table.amend Crane.num c f w.fl.cranes } }
/-- The move record with a tag changed. -/
def Work.onMove (t : Nat) (f : Move → Move) (w : Work) : Work :=
  { w with fl := { w.fl with moves := Table.amend Move.tag t f w.fl.moves } }
/-- The node record at an address changed. -/
def Work.onNode (a : Nat) (f : Node → Node) (w : Work) : Work :=
  { w with fl := { w.fl with line := { w.fl.line with nodes := Table.amend Node.address a f w.fl.line.nodes } } }
/-- The line changed. -/
def Work.onLine (f : Line → Line) (w : Work) : Work := { w with fl := { w.fl with line := f w.fl.line } }
/-- A bay changed; a bay changing is a readiness event (R114). -/
def Work.onBay (b : Nat) (f : Bay → Bay) (w : Work) : Work :=
  { w with fl := { w.fl with bays := Table.amend Bay.num b f w.fl.bays }, scan := true }

/-! ### Hold sets (section 3.5) -/

/-- The set holds a reason. -/
def HoldSet.has (h : HoldSet) : HoldReason → Bool
  | .host => h.host
  | .hall => h.hall
  | .frozen => h.frozen
  | .consumables => h.consumables
  | .serialExhausted => h.serialExhausted
  | .nodeLost => h.nodeLost

/-- The set with a reason present or absent. -/
def HoldSet.set (h : HoldSet) (r : HoldReason) (v : Bool) : HoldSet :=
  match r with
  | .host => { h with host := v }
  | .hall => { h with hall := v }
  | .frozen => { h with frozen := v }
  | .consumables => { h with consumables := v }
  | .serialExhausted => { h with serialExhausted := v }
  | .nodeLost => { h with nodeLost := v }

/-- The empty hold set. -/
def HoldSet.none : HoldSet := {}

/-- No reason is left. -/
def HoldSet.isEmpty (h : HoldSet) : Bool := h == HoldSet.none

/-- The six reasons in bit order (section 10.2). -/
def HoldReason.all : List HoldReason := [.host, .hall, .frozen, .consumables, .serialExhausted, .nodeLost]

/-- No suspend cause is left (R127). -/
def SuspendSet.isEmpty (c : SuspendSet) : Bool := c == {}

/-! ### Notices of the records -/

/-- The notice is a STATION notice of a station with a cause. -/
def NoticeBody.tells (n : Nat) (cause : StationCause) : NoticeBody → Bool
  | .station c m _ _ _ _ _ _ => c == cause && m == n
  | _ => false

/-- What a STATION notice shows of a station's record (R62). -/
def Station.shown (st : Station) (cause : StationCause) (reason : Option HoldReason) : NoticeBody :=
  .station cause st.num st.state st.hold reason st.job st.fault st.cond

/-- A STATION notice of a change of state, brought up to date where the same event has added a reason: its REASON_ADDED
notice shows the record as it stands (R62). -/
def Station.refresh (st : Station) : NoticeBody → NoticeBody
  | .station .reasonAdded m s h r j f c =>
    if m = st.num then st.shown .reasonAdded r else .station .reasonAdded m s h r j f c
  | b => b

/-- A STATION notice showing the station's record as it stands. An event that both adds a reason and changes the state
sends one notice, with cause REASON_ADDED (R62): it takes the place of a STATE_CHANGE that the event has raised before, and
a STATE_CHANGE after it brings it up to date (notes/assumptions 44). -/
def Work.noteStation (x : Ctx) (n : Nat) (cause : StationCause) (reason : Option HoldReason) (w : Work) : Work :=
  match w.fl.station? n with
  | none => w
  | some st =>
    match cause with
    | .reasonAdded =>
      ({ w with out := w.out.filter fun k => !k.body.tells n .stateChange } : Work).note x (st.shown .reasonAdded reason)
    | .stateChange =>
      if w.out.any fun k => k.body.tells n .reasonAdded then
        { w with out := w.out.map fun k => { k with body := st.refresh k.body } }
      else w.note x (st.shown .stateChange reason)
    | c => w.note x (st.shown c reason)

/-- A MOVE notice carrying a move's record (R132). -/
def Work.noteMove (x : Ctx) (cause : MoveCause) (m : Move) (ended : Option MoveEnd) (w : Work) : Work :=
  w.note x (.move cause m ended 0 0 none (m.pickup.bind x.cfg.placeAt) ((x.cfg.placeAt m.drop).getD 0))

/-- A MOVE notice of the move with a tag, as its record stands. -/
def Work.noteMoveTag (x : Ctx) (cause : MoveCause) (t : Nat) (w : Work) : Work :=
  match w.fl.move? t with
  | some m => w.noteMove x cause m none
  | none => w

/-- A CRANE notice showing the crane's record as it stands (R132). -/
def Work.noteCrane (x : Ctx) (c : Nat) (cause : CraneCause) (w : Work) : Work :=
  match w.fl.crane? c with
  | some k => w.note x (.crane cause c k.health k.position k.grant)
  | none => w

/-- A JOB notice showing the job's record as it stands (R101). -/
def Work.noteJob (x : Ctx) (j : Nat) (cause : JobCause) (remnant mskel : Option Nat) (w : Work) : Work :=
  match w.fl.job? j with
  | some k => w.note x (.job cause j k.station (some k.state) remnant mskel none)
  | none => w

/-! ### Plates, bays and slots (R4, R5, R6) -/

/-- A plate's hold changed (R5); a readiness event (R114). -/
def Work.setHold (id : Nat) (h : Hold) (w : Work) : Work :=
  { w with fl := { w.fl with plates := Table.amend Plate.id id (fun p => { p with hold := h }) w.fl.plates },
           scan := true }

/-- A plate's location changed in its record (R4); a readiness event, and the queues of jobs whose plate moved are
examined (R83). -/
def Work.setLocation (id : Nat) (loc : Location) (w : Work) : Work :=
  { w with fl := { w.fl with plates := Table.amend Plate.id id (fun p => { p with location := loc }) w.fl.plates },
           scan := true, examine := true }

/-- A slot is open: what R28 asks of a drop, and R41 of a slot for a store, but for claims and fit. -/
def Slot.isOpen (rackUp : Bool) (s : Slot) : Bool :=
  rackUp && s.register.isNone && s.sensed == .empty && s.dispute == .none && s.transfer == .none

/-- What R28 asks of a slot as a pickup, but for the load it must hold. -/
def Slot.isPickable (rackUp : Bool) (s : Slot) : Bool :=
  rackUp && s.register.isSome && s.dispute == .none && s.transfer == .none

/-- A rack changed by `f`. Each slot that becomes open gives a slot-freed event, and each that becomes ready as a
pickup a pickup-ready event (R31). -/
def Work.onRack (r : Nat) (f : Rack → Rack) (w : Work) : Work :=
  match w.fl.rack? r with
  | none => w
  | some old =>
    let new := f old
    let freed := new.slots.any fun s =>
      s.isOpen new.up && !((Table.get Slot.num s.num old.slots).any fun o => o.isOpen old.up)
    let picks := new.slots.any fun s =>
      s.isPickable new.up && !((Table.get Slot.num s.num old.slots).any fun o => o.isPickable old.up)
    { w with fl := { w.fl with racks := Table.amend Rack.num r (fun _ => new) w.fl.racks },
             serve := w.serve || freed, scan := w.scan || freed || picks, freed := w.freed || freed }

/-- A slot record changed by `f` (with the events of R31). -/
def Work.onSlot (r n : Nat) (f : Slot → Slot) (w : Work) : Work :=
  w.onRack r fun k => { k with slots := Table.amend Slot.num n f k.slots }

/-- A slot begins to be decided afresh: its candidate and count cleared (R25). -/
def Slot.restart (s : Slot) : Slot := { s with candidate := none, agree := 0 }

/-- A transfer returns to NONE with no crane event verified: recheck YES, the count cleared (R29). -/
def Slot.returned (s : Slot) : Slot := { s.restart with transfer := .none, recheck := true }

/-- The plates above a removed level of a bay move down one level (R6). -/
def lowerAbove (b level : Nat) (p : Plate) : Plate :=
  match p.location with
  | .bay b' k => if b' = b ∧ level < k then { p with location := .bay b' (k - 1) } else p
  | _ => p

/-- A plate leaves its place, which is emptied at the same event (R4): a pop or a removal from inside for a bay
(R6), the bed of a station, the register of a slot. -/
def Work.leavePlace (id : Nat) (loc : Location) (w : Work) : Work :=
  match loc with
  | .bay b level =>
    let w := w.onBay b fun k => { k with stack := k.stack.filter (· != id) }
    { w with fl := { w.fl with plates := w.fl.plates.map (lowerAbove b level) } }
  | .crane _ => w
  | .station s => w.onStation s fun st => { st with bed := none }
  | .rack r n => w.onSlot r n fun s => { s with register := none }

/-- A plate record deleted and its place emptied (R4). -/
def Work.deletePlate (id : Nat) (w : Work) : Work :=
  match w.fl.plate? id with
  | none => w
  | some p =>
    let w := w.leavePlace id p.location
    { w with fl := { w.fl with plates := Table.drop Plate.id id w.fl.plates }, scan := true, examine := true }

/-- The depth of a bay's stack. -/
def Floor.depth (fl : Floor) (b : Nat) : Nat := ((fl.bay? b).map fun k => k.stack.length).getD 0

/-- A plate put on top of a bay (R6: push). -/
def Work.pushBay (b id : Nat) (w : Work) : Work :=
  w.onBay b fun k => { k with stack := k.stack ++ [id] }

/-- The first id not held by a plate present, going up from `start` and from 65535 to 1, looking at `fuel` ids (R3:
97 are enough, since at most 96 are held). -/
def freeIdFrom (fl : Floor) : Nat → Nat → Nat
  | 0, start => start
  | fuel + 1, start =>
    if (fl.plate? start).isSome then freeIdFrom fl fuel (if start < 65535 then start + 1 else 1) else start

/-- The id the next issue gives (R3). -/
def Floor.issueId (fl : Floor) : Nat := freeIdFrom fl (fl.plates.length + 1) fl.nextId

/-- The next-id counter after an issue (R3). -/
def idAfter (id : Nat) : Nat := if id < 65535 then id + 1 else 1

/-- A plate record created under the id issued for it (R2, R3). -/
def Work.addPlate (p : Plate) (w : Work) : Work :=
  { w with fl := { w.fl with plates := Table.put Plate.id p w.fl.plates, nextId := idAfter p.id },
           scan := true, examine := true }

/-! ### Moves and their tags (R107) -/

/-- A tag the part may give (16-31). -/
def isInternal (t : Nat) : Bool := decide (16 ≤ t)

/-- The lowest tag in 16-31 not held by a move present (R107). -/
def Floor.freeTag (fl : Floor) : Option Nat := (List.range' 16 16).find? fun t => (fl.move? t).isNone

/-- A slot is claimed while a move present names it as its drop (R28). -/
def Floor.claimant (fl : Floor) (r n : Nat) : Option Nat :=
  (fl.moves.find? fun m => m.drop == .slot r n).map Move.tag

/-- The end of a move's slot claim is a slot-freed event when the slot stands open (R31). -/
def Work.claimEnded (drop : Place) (w : Work) : Work :=
  match drop with
  | .slot r n =>
    if (w.fl.slot? r n).any fun s => s.isOpen ((w.fl.rack? r).any Rack.up) then w.slotFreed else w
  | _ => w

/-- A move's record leaves the queue and its tag becomes free (R107): the Job Manager is told of an internal tag,
its slot claim ends, and a scan follows (R114). -/
def Work.removeMove (m : Move) (w : Work) : Work :=
  let w := { w with fl := { w.fl with moves := Table.drop Move.tag m.tag w.fl.moves } }
  let w := if isInternal m.tag then w.wantServe.wantExamine else w
  (w.claimEnded m.drop).wantScan

/-- A move deleted by a request or by its job (R107, R132). -/
def Work.deleteMove (x : Ctx) (t : Nat) (w : Work) : Work :=
  match w.fl.move? t with
  | some m => (w.noteMove x .deleted m none).removeMove m
  | none => w

/-- The place a plate's location is (R108); a plate on a crane lies at no place. -/
def Location.place : Location → Option Place
  | .bay b _ => some (.bay b)
  | .crane _ => none
  | .station s => some (.station s)
  | .rack r n => some (.slot r n)

/-- Where a move's load lies now: the pickup of a move that has not lifted it (R108). -/
def Floor.pickupOf (fl : Floor) (m : Move) : Option Place :=
  match m.load with
  | .plate id => (fl.plate? id).bind fun p => p.location.place
  | .skeleton s _ _ _ => some (.station s)
  | .none => none

/-- A move created by the part under the lowest free internal tag (R107), with its MOVE notice CREATED, which carries the
whole record: for a YIELD, the move it clears the way for (R118). Answers the tag, or none when no internal tag is free. -/
def Work.createMove (x : Ctx) (origin : Origin) (kind : MoveKind) (load : Load) (pickup : Option Place) (drop : Place)
    (expedite : Bool) (w : Work) (waitingFor : Option Nat := none) : Option Nat × Work :=
  match w.fl.freeTag with
  | none => (none, w)
  | some t =>
    let m : Move :=
      { tag := t, origin, kind, load, pickup, drop, expedite, wait := Timer.idle 0, submitted := x.clock,
        crane := none, state := .waiting, causedYield := none, waitingFor, expired := false }
    (some t, (({ w with fl := { w.fl with moves := w.fl.moves ++ [m] } } : Work).noteMove x .created m none).wantScan)

end Sys2Proof.Machine
end

