-- ==== Sys2Proof/Machine/Operands.lean ====
section
/-! DEFINITION. The operands of requests: the alphabet, the ranges of the fields, and the reading of raw fields into
the values they code (R175, section 10.1, section 10.2). -/
namespace Sys2Proof.Machine

/-! ## Texts -/

/-- A symbol code of the mark alphabet (section 10.1). -/
def isSymbol (b : Byte) : Bool :=
  let n := b.toNat
  n == 0x20 || n == 0x2D || n == 0x2E || n == 0x2F || (0x30 ≤ n && n ≤ 0x39) || (0x41 ≤ n && n ≤ 0x5A)

/-- A text of 1 to `most` symbols of the mark alphabet. -/
def textOk (most : Nat) (t : Text) : Bool := decide (1 ≤ t.length ∧ t.length ≤ most) && t.all isSymbol

/-- A heat number: 1-12 symbols of the mark alphabet, no space. -/
def heatOk (t : Text) : Bool := textOk 12 t && t.all fun b => b != 0x20#8

/-! ## Ranges -/

/-- `lo ≤ n ≤ hi`. -/
def inRange (lo hi n : Nat) : Bool := decide (lo ≤ n ∧ n ≤ hi)

/-- A YES/NO byte (section 10.1). -/
def isYesNo (n : Nat) : Bool := n < 2

/-- The ordinal, counted from 1, of the first field that fails its test (R175). -/
def firstBad (tests : List Bool) : Option Nat := (tests.findIdx? fun ok => !ok).map (· + 1)

/-- A notch corner as it is coded; `none` for no notch (enumeration 3). -/
def cornerOf : Nat → Option Corner
  | 1 => some .ne
  | 2 => some .nw
  | 3 => some .se
  | 4 => some .sw
  | _ => none

/-- The notch that a corner code and two lengths carry; nl and nw are disregarded without a corner (R175). -/
def notchOf (corner nl nw : Nat) : Option Notch := (cornerOf corner).map fun c => ⟨c, nl, nw⟩

/-- The tests of L, W, corner, nl and nw against section 1.2 (nl and nw against the given L and W). -/
def shapeTests (len wid corner nl nw : Nat) : List Bool :=
  [inRange 200 24000 len, inRange 200 4800 wid, decide (corner ≤ 4),
   corner == 0 || decide (100 ≤ nl ∧ nl + 100 ≤ len), corner == 0 || decide (100 ≤ nw ∧ nw + 100 ≤ wid)]

/-- The tests of grade, T, heat and shape of a plate record (section 1.2). -/
def plateTests (grade thickness : Nat) (heat : Text) (len wid corner nl nw : Nat) : List Bool :=
  [decide (grade ≤ 15), inRange 30 1500 thickness, heatOk heat] ++ shapeTests len wid corner nl nw

/-! ## Codes read -/

/-- A node kind code (enumeration of R178). -/
def nodeKindOf : Nat → Option NodeKind
  | 1 => some .station
  | 2 => some .crane
  | 3 => some .rack
  | _ => none

/-- A line rate code (250 kbit/s 0, 1 Mbit/s 1; notes/assumptions 12). -/
def rateOf (n : Nat) : LineRate := if n = 1 then .mbit1 else .kbit250

/-- The twelve failure reasons in code order from 1 (enumeration 13). -/
def FailReason.all : List FailReason :=
  [.arcLost, .pierceFailed, .heightFault, .gasFault, .markerFault, .operatorAbort, .stopped, .linkLost, .markFailed,
   .loadMismatch, .overload, .waitExpired]

/-- The seven node phases in code order from 0 (enumeration 23). -/
def NodePhase.all : List NodePhase := [.idle, .toPickup, .atPickup, .loadHeld, .toDrop, .atDrop, .setDown]

/-- A failure reason code of a node report (enumeration 13). A byte that is no reason's code is taken as one of them: which
one is a free value (notes/assumptions 43). -/
def failReasonOf (n : Nat) : FailReason :=
  let k := if inRange 1 12 n then n - 1 else (Config.reportedReason n).val
  FailReason.all[k]?.getD .arcLost

/-- A node phase code (enumeration 23). A byte that is no phase's code is taken as one of them: which one is a free value
(notes/assumptions 43). -/
def nodePhaseOf (n : Nat) : NodePhase :=
  let k := if n ≤ 6 then n else (Config.reportedPhase n).val
  NodePhase.all[k]?.getD .idle

/-- A notice kind by its message code (section 10.2). -/
def noticeKindOf : Nat → Option NoticeKind
  | 0x80 => some .hall
  | 0x81 => some .node
  | 0x82 => some .station
  | 0x83 => some .entry
  | 0x84 => some .job
  | 0x85 => some .move
  | 0x86 => some .crane
  | 0x87 => some .slot
  | 0x88 => some .wear
  | 0x89 => some .serial
  | _ => none

/-- A template field from its raw form; none for an unknown kind, a LITERAL outside 1-12 symbols of the alphabet or
a counter id outside 1-8 (R64 check 1). -/
def fieldOf (f : RawField) : Option Field :=
  match f.kind with
  | 0 => if textOk 12 f.text then some (.literal f.text) else none
  | 1 => some .job
  | 2 => some .partNo
  | 3 => some .heat
  | 4 => some .grade
  | 5 => some .thick
  | 6 => if inRange 1 8 f.counter then some (.serial f.counter) else none
  | 7 => some .station
  | _ => none

/-- The tests of a burn list entry's five fields (section 5.1), each with an ordinal of its own (DESIGN CHOICE,
notes/assumptions 12); the part number and template of a SEPARATION are disregarded (R175). -/
def entryTests (e : RawEntry) : List Bool :=
  [isYesNo e.kind, e.kind == 1 || textOk 16 e.partNo, e.kind == 1 || decide (e.template ≤ 16),
   decide ((e.kind = 1 ∨ 1 ≤ e.area) ∧ e.area ≤ 115200000), inRange 1 16 e.pierces]

/-- A burn list entry as the job record holds it, PENDING (R81). A SEPARATION has no part number and no template. -/
def entryOf (e : RawEntry) : Entry :=
  if e.kind = 1 then ⟨.separation, [], 0, e.area, e.pierces, .pending⟩
  else ⟨.part, e.partNo, e.template, e.area, e.pierces, .pending⟩

/-- The drop of a host move from its place kind and two numbers: only BAY, SLOT and SCRAP (R109). -/
def dropOf (kind first second : Nat) : Option Place :=
  match kind with
  | 1 => some (.bay first)
  | 2 => some (.slot first second)
  | 4 => some .scrap
  | _ => none

/-- The kind of a host move and whether its drop is of the kind it allows (R109 check 1). -/
def hostKindOf : Nat → Option MoveKind
  | 4 => some .remnantScrap
  | 5 => some .rackTransfer
  | 6 => some .bayTransfer
  | _ => none

/-- The drop kind that a host move's kind allows: SCRAP, a slot or a bay (R109). -/
def dropAllowed : MoveKind → Place → Bool
  | .remnantScrap, .scrap => true
  | .rackTransfer, .slot _ _ => true
  | .bayTransfer, .bay _ => true
  | _, _ => false

/-- A byte of a status block that has the values 0 and 1 (R178). How another byte is taken is a free value
(notes/assumptions 61). -/
def flagOf (n : Nat) : Bool := if n ≤ 1 then n == 1 else Config.reportedFlag n

/-- Absent is 0: an optional number as its one-byte encoding gives it. -/
def optOf (n : Nat) : Option Nat := if n = 0 then none else some n

end Sys2Proof.Machine
end

