-- ==== Sys2Proof/Machine/Flags.lean ====
section
/-! DEFINITION. The conditions the rules compute from the records: ALERT (R163), the passage from HOLDING to HELD
(R157), the readiness of pickups and drops (R6, R28, R46, R108), eligibility (R113) and the reasons of READ_MOVE
(R112). -/
namespace Sys2Proof.Machine

/-! ## Hall conditions -/

/-- ALERT is asserted while the hall is FROZEN or any node record is LOST or WRONG_KIND (R163). -/
def alertOf (st : HallState) (nodes : List Node) : Bool := st == .frozen || nodes.any fun n => n.health != .up

/-- Nothing is in flight: no entry in progress and no move counted (R157). -/
def Floor.atRest (fl : Floor) : Bool := fl.entryStations.isEmpty && fl.movesInFlight == 0

/-- A state in which plates, stock, jobs and moves may be changed by requests (section 9.5). -/
def HallState.working : HallState → Bool
  | .ready | .run | .holding | .held => true
  | _ => false

/-! ## Loads -/

/-- The mass, thickness and grade of a move's load (R14); none for a yield or a plate with no record. -/
def Floor.loadFigures (fl : Floor) : Load → Option (Nat × Nat × Nat)
  | .plate id => (fl.plate? id).map fun p => (p.mass, p.thickness, p.grade)
  | .skeleton _ m t g => some (m, t, g)
  | .none => none

/-- A crane passes the lift check for a load (R14). -/
def Ctx.lifts (x : Ctx) (c : CraneCfg) (mass thickness grade : Nat) : Bool :=
  liftPasses c mass thickness (x.cfg.factor grade)

/-- A position lies within a crane's limits (R154). -/
def CraneCfg.reaches (c : CraneCfg) (at_ : Nat) : Bool := decide (c.limitMin ≤ at_ ∧ at_ ≤ c.limitMax)

/-! ## Readiness (R108) -/

/-- The plate is its bay's top plate. -/
def Bay.topIs (b : Bay) (id : Nat) : Bool := b.stack.getLast? == some id

/-- A bay is ready as a pickup for a plate (R6). -/
def Bay.readyPickup (b : Bay) (id : Nat) : Bool := b.topIs id && b.incoming == 0 && b.claim.isNone

/-- A bay is ready as a drop (R6). -/
def Bay.readyDrop (b : Bay) : Bool := decide (b.stack.length + b.incoming < 6) && b.claim.isNone

/-- The job of a move's origin. -/
def Floor.originJob (fl : Floor) (m : Move) : Option Job :=
  match m.origin with
  | .job j => fl.job? j
  | _ => none

/-- The close-out step of a job. -/
def Job.step? (j : Job) : Option CloseStep := j.closeOut.map CloseOut.step

/-- The hold allows the plate to be lifted by a move (R108): never MISSING, QUARANTINED for a REMNANT_SCRAP alone. A plate
that a job has come to hold while its REMNANT_SCRAP waits is lifted (notes/assumptions 20). -/
def holdAllows (kind : MoveKind) : Hold → Bool
  | .missing => false
  | .quarantined => kind == .remnantScrap
  | .reserved _ | .committed _ | .free => true

/-- A job holds the plate (R5). -/
def Hold.isHeld : Hold → Bool
  | .reserved _ | .committed _ => true
  | _ => false

/-- The hold allows the plate to be submitted as the load of a move (R109 check 5): as R108 has it, and no REMNANT_SCRAP of a
plate that a job holds. -/
def holdSubmits (kind : MoveKind) (h : Hold) : Bool :=
  holdAllows kind h && !(kind == .remnantScrap && h.isHeld)

/-- The load is carried by an earlier-submitted move that is present (R108). -/
def Floor.loadElsewhere (fl : Floor) (m : Move) : Bool :=
  match m.load with
  | .plate id => (fl.moves.takeWhile fun k => k.tag != m.tag).any fun k => k.load == .plate id
  | _ => false

/-- The load lies in a bay below the top (R6, R108). -/
def Floor.buried (fl : Floor) (m : Move) : Bool :=
  match m.load, fl.pickupOf m with
  | .plate id, some (.bay b) => !((fl.bay? b).any fun k => k.topIs id)
  | _, _ => false

/-- The place of a move's load is ready as a pickup for it, and the load's hold allows it (R108). -/
def Floor.pickupReady (fl : Floor) (m : Move) : Bool :=
  match m.load with
  | .plate id =>
    match fl.plate? id with
    | none => false
    | some p =>
      holdAllows m.kind p.hold &&
      match p.location with
      | .bay b _ => (fl.bay? b).any fun k => k.readyPickup id
      | .rack r n =>
        (fl.slot? r n).any fun s => s.isPickable ((fl.rack? r).any Rack.up) && s.register == some id
      | .station s =>
        m.kind == .remnantStore && p.hold == .free && (fl.originJob m).any fun j =>
          j.station == s && j.step? == some .store
      | .crane _ => false
  | .skeleton s _ _ _ => (fl.originJob m).any fun j => j.station == s && j.step? == some .skeleton
  | .none => true

/-- The drop of a move is ready (R6, R28, R46; the scrap point always). -/
def Floor.dropReady (fl : Floor) (m : Move) : Bool :=
  match m.drop with
  | .bay b => (fl.bay? b).any Bay.readyDrop
  | .slot r n =>
    ((fl.slot? r n).any fun s => s.isOpen ((fl.rack? r).any Rack.up)) && fl.claimant r n == some m.tag
  | .station s => (fl.station? s).any fun st => st.state == .vacant && st.claim.isNone
  | .scrap => true
  | .position _ => true

/-- A crane is free (R113). -/
def Crane.isFree (c : Crane) : Bool :=
  c.grant.isSome && c.health == .normal && c.activity == .idle && c.bound.isNone

/-- The crane's limits hold the pickup and the drop of a move (R113). -/
def Ctx.craneReaches (x : Ctx) (fl : Floor) (c : CraneCfg) (m : Move) : Bool :=
  ((fl.pickupOf m).bind x.cfg.placeAt).all c.reaches && (x.cfg.placeAt m.drop).any c.reaches

/-- The crane passes the lift check for a move's load; a yield has none (R113). -/
def Ctx.craneLifts (x : Ctx) (fl : Floor) (c : CraneCfg) (m : Move) : Bool :=
  match m.load with
  | .none => true
  | l => (fl.loadFigures l).any fun f => x.lifts c f.1 f.2.1 f.2.2

/-- A WAITING move is eligible for a free crane (R113). -/
def Ctx.eligible (x : Ctx) (fl : Floor) (m : Move) (k : Crane) : Bool :=
  x.hall == .run && !fl.runwayStopped && m.state == .waiting && k.isFree
    && (x.cfg.crane? k.num).any (fun c => x.craneReaches fl c m && x.craneLifts fl c m)
    && fl.pickupReady m && !fl.loadElsewhere m && fl.dropReady m

/-- The reasons a WAITING move is not now bound, in the order of R112. A load buried in its bay is reported as BURIED
and not as PICKUP_NOT_READY (R108). DESIGN CHOICE (notes/assumptions 79): a load that an earlier move carries is reported as
LOAD_IN_OTHER_MOVE, and PICKUP_NOT_READY speaks of the load's place and hold alone. A move that is not WAITING has none. -/
def Ctx.reasons (x : Ctx) (fl : Floor) (m : Move) : List Bool :=
  if m.state == .waiting then
    [x.hall != .run, fl.runwayStopped, fl.buried m, !fl.buried m && !fl.pickupReady m, fl.loadElsewhere m,
     !fl.dropReady m, !x.cfg.cranes.any fun c => x.craneReaches fl c m,
     !x.cfg.cranes.any fun c => x.craneLifts fl c m, !fl.cranes.any Crane.isFree]
  else []

end Sys2Proof.Machine
end

