-- ==== Sys2Proof/Machine/Formats.lean ====
section
/-! DEFINITION. The formats of both links: field encodings, codes, order frames, record and notice bodies, reply
frames (chapter Formats). -/
namespace Sys2Proof.Machine

/-! ## CRC-16 (R134, R166) -/

/-- One shift of the CRC register with generator 0x1021. -/
def crcShift (c : Crc) : Crc := if c.msb then (c <<< 1) ^^^ 0x1021#16 else c <<< 1

/-- One data byte entered, its most significant bit first (R134). -/
def crcByte (c : Crc) (b : Byte) : Crc :=
  crcShift (crcShift (crcShift (crcShift (crcShift (crcShift (crcShift (crcShift (c ^^^ (b.setWidth 16 <<< 8)))))))))

/-- The CRC of a string of bytes: initial value 0xFFFF, no final inversion (R134). -/
def crc16 (l : List Byte) : Crc := l.foldl crcByte 0xFFFF#16

/-! ## Field encodings (section 10.1) -/

/-- A one-byte number. -/
def enc1 (n : Nat) : List Byte := [BitVec.ofNat 8 n]
/-- A two-byte number, high byte first. -/
def enc2 (n : Nat) : List Byte := [BitVec.ofNat 8 (n / 256), BitVec.ofNat 8 n]
/-- A four-byte number, high byte first. -/
def enc4 (n : Nat) : List Byte := enc2 (n / 65536) ++ enc2 n
/-- YES/NO: NO 0, YES 1. -/
def encBool (b : Bool) : List Byte := [if b then 1 else 0]
/-- A text: a length byte, then its symbols. -/
def encText (t : Text) : List Byte := enc1 t.length ++ t
/-- A list: a count byte, then its items. -/
def encList (f : α → List Byte) (l : List α) : List Byte := enc1 l.length ++ l.flatMap f
/-- An optional one-byte field whose absence is 0. -/
def encOpt1 (o : Option Nat) : List Byte := enc1 (o.getD 0)
/-- An optional two-byte field whose absence is 0. -/
def encOpt2 (o : Option Nat) : List Byte := enc2 (o.getD 0)
/-- An optional four-byte field whose absence is 0. -/
def encOpt4 (o : Option Nat) : List Byte := enc4 (o.getD 0)
/-- An optional move tag: 0xFF when absent. -/
def encTag (o : Option Nat) : List Byte := enc1 (o.getD 255)
/-- A remaining time: 0xFFFFFFFF when it does not run. -/
def encRemaining (t : Timer) : List Byte := enc4 (t.reported.getD 4294967295)
/-- A CRC, high byte first. -/
def encCrc (c : Crc) : List Byte := enc2 c.toNat
/-- A set: one bit per member, bit 0 the first member listed. -/
def bitsOf : List Bool → Nat
  | [] => 0
  | b :: l => b.toNat + 2 * bitsOf l

/-! ## Enumerations (section 10.2): the code of each value, and 0xFF for an absent one -/

def HallState.code : HallState → Nat
  | .setup => 0 | .ready => 1 | .run => 2 | .holding => 3 | .held => 4 | .frozen => 5
def FreezeCause.code : FreezeCause → Nat | .command => 0 | .stopInput => 1
def PlateKind.code : PlateKind → Nat | .raw => 0 | .remnant => 1
def Corner.code : Corner → Nat | .ne => 1 | .nw => 2 | .se => 3 | .sw => 4
def Hold.code : Hold → Nat | .free => 0 | .reserved _ => 1 | .committed _ => 2 | .missing => 3 | .quarantined => 4
def Sensed.code : Sensed → Nat | .empty => 0 | .occupied => 1 | .unknown => 2
def Dispute.code : Dispute → Nat | .none => 0 | .missingPlate => 1 | .unexpectedObject => 2
def Transfer.code : Transfer → Nat
  | .none => 0 | .inbound _ => 1 | .outbound _ => 2 | .verifyIn => 3 | .verifyOut => 4
def StationState.code : StationState → Nat
  | .vacant => 0 | .receiving => 1 | .loaded => 2 | .marking => 3 | .burning => 4 | .holdPending => 5 | .held => 6
  | .clearing => 7
def JobState.code : JobState → Nat | .queued => 0 | .staging => 1 | .ready => 2 | .active => 3 | .closing => 4
def Phase.code : Phase → Nat | .mark => 0 | .burn => 1
def EntryKind.code : EntryKind → Nat | .part => 0 | .separation => 1
def EntryOutcome.code : EntryOutcome → Nat
  | .pending => 0 | .marked => 1 | .done => 2 | .failed _ => 3 | .notAttempted => 4
def FailReason.code : FailReason → Nat
  | .arcLost => 1 | .pierceFailed => 2 | .heightFault => 3 | .gasFault => 4 | .markerFault => 5 | .operatorAbort => 6
  | .stopped => 7 | .linkLost => 8 | .markFailed => 9 | .loadMismatch => 10 | .overload => 11 | .waitExpired => 12
def Policy.code : Policy → Nat | .stop => 0 | .skip => 1
def CloseStep.code : CloseStep → Nat | .waitParts => 0 | .store => 1 | .skeleton => 2
def CloseCond.code : CloseCond → Nat | .none => 0 | .stockFull => 1 | .overweight => 2 | .liftFailed => 3
def MoveKind.code : MoveKind → Nat
  | .plateIn => 0 | .remnantFetch => 1 | .remnantStore => 2 | .skeletonOut => 3 | .remnantScrap => 4
  | .rackTransfer => 5 | .bayTransfer => 6 | .yield => 7
def Origin.code : Origin → Nat | .host => 0 | .job _ => 1 | .yield => 2
def MovePhase.code : MovePhase → Nat | .toPickup => 2 | .liftCheck => 3 | .toDrop => 4 | .setDownWait => 5
def MoveState.code : MoveState → Nat | .waiting => 0 | .bound => 1 | .phase p => p.code | .suspended _ _ => 6
def CraneHealth.code : CraneHealth → Nat | .offline => 0 | .normal => 1 | .degraded => 2 | .faulted => 3
def Activity.code : Activity → Nat | .idle => 0 | .bound => 1 | .moving => 2
def NodePhase.code : NodePhase → Nat
  | .idle => 0 | .toPickup => 1 | .atPickup => 2 | .loadHeld => 3 | .toDrop => 4 | .atDrop => 5 | .setDown => 6
def NodeHealth.code : NodeHealth → Nat | .up => 0 | .lost => 1 | .wrongKind => 2
def MoveMode.code : MoveMode → Nat | .transfer => 0 | .deliver => 1 | .travel => 2
def NodeKind.code : NodeKind → Nat | .station => 1 | .crane => 2 | .rack => 3
def LineRate.code : LineRate → Nat | .kbit250 => 0 | .mbit1 => 1
def TimerState.code : TimerState → Nat | .stopped => 0 | .running => 1 | .paused => 2
def JobOutcome.code : JobOutcome → Nat
  | .complete => 0 | .stoppedOnFailure => 1 | .cancelled => 2 | .lapsed => 3 | .materialLost => 4
  | .materialRejected => 5
def NoticeKind.code : NoticeKind → Nat
  | .hall => 0x80 | .node => 0x81 | .station => 0x82 | .entry => 0x83 | .job => 0x84 | .move => 0x85 | .crane => 0x86
  | .slot => 0x87 | .wear => 0x88 | .serial => 0x89

/-- UP or LOST as enumeration 24 codes them. -/
def linkCode (up : Bool) : Nat := if up then 0 else 1

/-- The hold set in bits 0-5 (section 10.2). -/
def HoldSet.bits (h : HoldSet) : Nat := bitsOf (HoldReason.all.map h.has)
/-- The bit number of a hold reason. -/
def HoldReason.bit (r : HoldReason) : Nat := HoldReason.all.idxOf r
/-- The suspend causes in bits 0-3 (section 10.2). -/
def SuspendSet.bits (c : SuspendSet) : Nat := bitsOf [c.frozen, c.breach, c.degraded, c.faulted]

/-- The refusal codes (section 10.3). -/
def RefusalCode.code : RefusalCode → Nat
  | .notAccepted => 1 | .busy => 2 | .badFormat => 3 | .outOfRange => 4 | .unknownItem => 5 | .duplicate => 6
  | .full => 7 | .bayFull => 8 | .notTop => 9 | .notFree => 10 | .inUse => 11 | .wrongLocation => 12
  | .plateTooLarge => 13 | .areaExceedsPlate => 14 | .remnantBelowMinimum => 15 | .remnantOutsidePlate => 16
  | .notLiftable => 17 | .badList => 18 | .templateTooLong => 19 | .counterBackwards => 20 | .sensedEmpty => 21
  | .tagInUse => 22 | .inMotion => 23 | .jobOwned => 24 | .active => 25 | .closing => 26 | .breachPersists => 27
  | .stopActive => 28 | .craneUnknown => 29 | .cranesTooClose => 30 | .overrun => 31
  | .noStation => 40 | .noCrane => 41 | .addressClash => 42 | .noPollEntry => 43 | .kindMismatch => 44
  | .pollEntryUnused => 45 | .craneRepetition => 46 | .runwayUnset => 47 | .craneLimits => 48 | .craneOrder => 49
  | .tareNotBelowSwl => 50 | .positionUnreachable => 51 | .limitsUnset => 52

/-- A detail item's kind and four-byte value (R176). -/
def Detail.encode : Detail → List Byte
  | .none => enc1 0 ++ enc4 0
  | .field n => enc1 1 ++ enc4 n
  | .offset n => enc1 2 ++ enc4 n
  | .messageCode c => enc1 3 ++ enc4 c
  | .enumerated e c => enc1 4 ++ enc2 e ++ enc2 c
  | .number n => enc1 5 ++ enc4 n
  | .plate i => enc1 6 ++ enc4 i
  | .job j => enc1 7 ++ enc4 j
  | .move t => enc1 8 ++ enc4 t
  | .station n => enc1 9 ++ enc4 n
  | .crane n => enc1 10 ++ enc4 n
  | .rackSlot r s => enc1 11 ++ enc2 r ++ enc2 s
  | .bay b => enc1 12 ++ enc4 b
  | .template i => enc1 13 ++ enc4 i
  | .counter i => enc1 14 ++ enc4 i
  | .address a => enc1 15 ++ enc4 a
  | .pollPosition p => enc1 16 ++ enc4 p
  | .grade i => enc1 17 ++ enc4 i
  | .place k a b => enc1 18 ++ enc1 0 ++ enc1 k ++ enc1 a ++ enc1 b
  | .entry i => enc1 19 ++ enc4 i
  | .location k a b => enc1 20 ++ enc1 0 ++ enc1 k ++ enc1 a ++ enc1 b

/-! ## Details naming a state (R176: detail kind 4 with the enumeration's number) -/

def HallState.detail (s : HallState) : Detail := .enumerated 1 s.code
def Hold.detail (h : Hold) : Detail := .enumerated 5 h.code
def Dispute.detail (d : Dispute) : Detail := .enumerated 7 d.code
def StationState.detail (s : StationState) : Detail := .enumerated 9 s.code
/-- The close-out step of a station's job; 0xFF, the absent enumeration, where there is none. -/
def stepDetail (s : Option CloseStep) : Detail := .enumerated 15 ((s.map CloseStep.code).getD 255)
def MoveState.detail (s : MoveState) : Detail := .enumerated 19 s.code
def CraneHealth.detail (h : CraneHealth) : Detail := .enumerated 21 h.code

/-- The location kind and its two numbers (section 10.3). -/
def Location.numbers : Location → Nat × Nat × Nat
  | .bay b l => (0, b, l)
  | .crane c => (1, c, 0)
  | .station s => (2, s, 0)
  | .rack r n => (3, r, n)
/-- A location as a detail item (kind 20). -/
def Location.detail (l : Location) : Detail := .location l.numbers.1 l.numbers.2.1 l.numbers.2.2
/-- The place kind (enumeration 20) and its two numbers; a POSITION's numbers are 0 (its position follows). -/
def Place.numbers : Place → Nat × Nat × Nat
  | .bay b => (1, b, 0)
  | .slot r n => (2, r, n)
  | .station s => (3, s, 0)
  | .scrap => (4, 0, 0)
  | .position _ => (5, 0, 0)

/-! ## Frames (R166, R176, R177) -/

/-- A host frame: start, length, code, tag, body, CRC over all but the start (R166). -/
def hostFrame (code tag : Nat) (body : List Byte) : List Byte :=
  let covered := enc2 (body.length + 2) ++ enc1 code ++ enc1 tag ++ body
  0xA7#8 :: covered ++ encCrc (crc16 covered)

/-- The frame of a reply: ACCEPTED 0x7E with its result body, or REFUSED 0x7F with the 7-byte body of R176. -/
def Reply.frame (code tag : Nat) : Reply → List Byte
  | .accepted body => hostFrame 0x7E tag body
  | .refused r d => hostFrame 0x7F tag (enc1 code ++ enc1 r.code ++ d.encode)

/-- The kind code of an order (R177). -/
def Order.kindCode : Order → Nat
  | .loadProgram _ => 0x01 | .mark _ _ => 0x02 | .burn _ _ _ => 0x03 | .park => 0x04 | .unpark => 0x05
  | .setLimit _ _ => 0x10 | .move _ _ _ _ => 0x11 | .continue _ => 0x12 | .lowerBack _ => 0x13 | .resume => 0x14

/-- The body of an order (R177). -/
def Order.body : Order → List Byte
  | .loadProgram n => enc2 n
  | .mark i text => enc1 i ++ encText text
  | .burn i p t => enc1 i ++ enc1 p ++ enc2 t
  | .park | .unpark | .resume => []
  | .setLimit lo hi => enc4 lo ++ enc4 hi
  | .move tag mode pickup drop =>
      enc1 tag ++ enc1 mode.code
        ++ (match pickup with
            | some (p, at_) => enc1 p.numbers.1 ++ enc4 at_
            | none => enc1 0 ++ enc4 0)
        ++ enc1 drop.1.numbers.1 ++ enc4 drop.2
  | .continue t | .lowerBack t => enc1 t

/-- A hall line frame: the address character, then length, order byte, kind and body, and the CRC over all but the
address (R134). `content` is empty for a plain poll. -/
def lineFrame (address orderByte : Nat) (content : List Byte) : List Byte :=
  let covered := enc1 (content.length + 2) ++ enc1 orderByte ++ content
  enc1 address ++ covered ++ encCrc (crc16 covered)

/-- A plain poll: length 2, order byte 0 (R134, R177). -/
def pollFrame (address : Nat) : List Byte := lineFrame address 0 []
/-- A STOP to one node: order byte 0x80, kind 0x7E (R177). -/
def stopFrame (address : Nat) : List Byte := lineFrame address 0x80 (enc1 0x7E)
/-- The STOP_ALL broadcast: address 31, kind 0x7F (R147, R177). -/
def stopAllFrame : List Byte := lineFrame 31 0x80 (enc1 0x7F)
/-- A numbered order: order byte 0x80 plus its number (R177). -/
def orderFrame (address number : Nat) (o : Order) : List Byte :=
  lineFrame address (0x80 + number) (enc1 o.kindCode ++ o.body)

/-! ## The line as the part drives it (R133, R135, R147) -/

/-- The characters of a frame that the part sends (R133): its first byte as an address character, every other one as a data
character. -/
def frameChars : List Byte → List LineChar
  | [] => []
  | a :: l => ⟨a, true, true⟩ :: l.map fun b => ⟨b, false, true⟩

/-- What the part is sending on the hall line: the frame of the visit whose report is not yet awaited (R135), the STOP_ALL
frame of a broadcast that is being sent (R147), or nothing. -/
def Line.driven (l : Line) : List LineChar :=
  match l.visit with
  | some v => if v.awaiting then [] else frameChars v.frame
  | none => if l.broadcast = .sending then frameChars stopAllFrame else []

/-- The driver enable LDE (R133): asserted from the start bit of a frame's address character to the stop bit of its last
character, released while the part sends nothing. -/
def Line.driverEnabled (l : Line) : Bool := !l.driven.isEmpty

/-! ## Record bodies (section 10.3 and the read rules) -/

/-- A notch: the corner, nl and nw, all 0 without one (section 10.1). -/
def encNotch : Option Notch → List Byte
  | some n => enc1 n.corner.code ++ enc2 n.nl ++ enc2 n.nw
  | none => enc1 0 ++ enc2 0 ++ enc2 0

/-- The job a hold names, 0 unless RESERVED or COMMITTED. -/
def Hold.jobCode : Hold → Nat
  | .reserved j | .committed j => j
  | _ => 0

/-- The plate record body (section 10.3, R8). -/
def Plate.encode (p : Plate) : List Byte :=
  enc2 p.id ++ enc1 p.kind.code ++ enc1 p.grade ++ enc2 p.thickness ++ encText p.heat ++ enc2 p.len ++ enc2 p.wid
    ++ encNotch p.notch ++ enc4 p.area ++ enc4 p.mass ++ enc1 p.generation ++ encOpt2 p.parent
    ++ enc1 p.location.numbers.1 ++ enc1 p.location.numbers.2.1 ++ enc1 p.location.numbers.2.2
    ++ enc1 p.hold.code ++ enc2 p.hold.jobCode ++ enc4 p.registeredAt

/-- A place with its position (section 10.3); a pickup that is absent is place kind none. -/
def encPlace (p : Option Place) (at_ : Option Nat) : List Byte :=
  match p with
  | some q => enc1 q.numbers.1 ++ enc1 q.numbers.2.1 ++ enc1 q.numbers.2.2 ++ enc4 (at_.getD 0)
  | none => enc1 0 ++ enc1 0 ++ enc1 0 ++ enc4 0

/-- A load: its kind (none 0, plate 1, skeleton 2), its plate id or station, and a skeleton's Mskel, T, grade. -/
def Load.encode : Load → List Byte
  | .none => enc1 0 ++ enc2 0 ++ enc4 0 ++ enc2 0 ++ enc1 0
  | .plate id => enc1 1 ++ enc2 id ++ enc4 0 ++ enc2 0 ++ enc1 0
  | .skeleton s m t g => enc1 2 ++ enc2 s ++ enc4 m ++ enc2 t ++ enc1 g

/-- The code of a move's state, with its end when it has left the queue (enumeration 19). -/
def moveStateCode (m : Move) : Option MoveEnd → Nat
  | none => m.state.code
  | some .done => 7
  | some (.failed _) => 8

/-- The move record body, 47 bytes (section 10.3). -/
def Move.encode (m : Move) (ended : Option MoveEnd) (pickupAt : Option Nat) (dropAt : Nat) : List Byte :=
  enc1 m.tag ++ enc1 m.origin.code ++ enc2 (match m.origin with | Origin.job j => j | _ => 0) ++ enc1 m.kind.code
    ++ m.load.encode ++ encPlace m.pickup pickupAt ++ encPlace (some m.drop) (some dropAt)
    ++ encBool m.expedite ++ enc1 m.wait.code ++ encRemaining m.wait ++ enc4 m.submitted
    ++ encOpt1 m.crane ++ enc1 (moveStateCode m ended)
    ++ enc1 (match ended with | some (.failed r) => r.code | _ => 0)
    ++ (match m.state with
        | .suspended p c => enc1 p.code ++ enc1 c.bits
        | _ => enc1 255 ++ enc1 0)
    ++ encTag m.causedYield ++ encTag m.waitingFor ++ encBool m.expired

/-- The tag a transfer carries. -/
def Transfer.tag : Transfer → Option Nat
  | .inbound t | .outbound t => Option.some t
  | _ => Option.none

/-- The slot record body, 11 bytes (section 10.3). -/
def Slot.encode (s : Slot) (claimant : Option Nat) : List Byte :=
  enc1 s.num ++ encOpt2 s.register ++ enc1 s.sensed.code ++ enc1 ((s.candidate.map Sensed.code).getD 255)
    ++ enc1 s.agree ++ enc1 s.dispute.code ++ enc1 s.transfer.code ++ encTag s.transfer.tag ++ encBool s.recheck
    ++ encTag claimant

/-- The READ_RACK reply: the configuration, the link status, the slots (R35). DESIGN CHOICE (notes/assumptions 52): the
configuration is the rack and the fields of SET_RACK in their order (R21). -/
def encRack (fl : Floor) (c : RackCfg) (k : Rack) : List Byte :=
  enc1 c.num ++ enc1 c.address ++ enc1 c.count ++ enc2 c.maxL ++ enc2 c.maxW ++ enc4 c.maxMass ++ enc4 c.position
    ++ enc1 (linkCode k.up) ++ encList (fun s => s.encode (fl.claimant c.num s.num)) k.slots

/-- The serial values drawn for a mark, each with its counter (R74, R179). -/
def encSerials (l : List (Nat × Nat)) : List Byte := encList (fun p => enc1 p.1 ++ enc4 p.2) l

/-- The READ_STATION reply: every field of the record, in the order of R61. DESIGN CHOICE (notes/assumptions 52): the
configuration is the station and the fields of SET_STATION in their order (R43). The started mark is a free value with no
entry in progress (notes/assumptions 6). R74 has it show the text of the entry in progress,
for which R61's list has no place. DESIGN CHOICE (notes/assumptions 68): the text stands right after the started mark, as an
empty text for a burn and with no entry in progress. -/
def encStation (c : StationCfg) (s : Station) : List Byte :=
  enc1 c.num ++ enc1 c.address ++ enc2 c.bedL ++ enc2 c.bedW ++ enc2 c.maxT ++ enc4 c.position ++ enc2 c.wearLimit
    ++ enc2 c.warnLevel ++ enc1 c.parkCode
    ++ enc1 s.state.code ++ encOpt2 s.bed ++ encTag s.claim ++ encOpt2 s.job ++ enc1 ((s.phase.map Phase.code).getD 255)
    ++ (match s.entry with
        | some e => enc1 e.index ++ enc1 e.kind.code ++ enc1 e.number ++ encBool e.started ++ encText e.text
        | none => enc1 0 ++ enc1 255 ++ enc1 0 ++ encBool (Config.absentFlag .startedMark) ++ encText [])
    ++ enc1 s.hold.bits ++ encOpt1 s.exhausted ++ enc2 s.wear ++ enc2 c.warnLevel ++ enc2 c.wearLimit
    ++ enc1 s.park.state.code ++ encRemaining s.park ++ encBool s.parked ++ enc1 s.outbox.length
    ++ enc1 (linkCode s.up) ++ encOpt1 s.fault ++ enc1 (s.sequence.getD (Config.absentValue .recordedSequence))
    ++ enc1 s.cond.code

/-- A template field: its kind's code and its parameter (assumption 12). -/
def Field.encode : Field → List Byte
  | .literal t => enc1 0 ++ encText t
  | .job => enc1 1
  | .partNo => enc1 2
  | .heat => enc1 3
  | .grade => enc1 4
  | .thick => enc1 5
  | .serial c => enc1 6 ++ enc1 c
  | .station => enc1 7

/-- A counter's fields in the order of R68, without its id. DEDUCED (notes/assumptions 53): an absent last issued value is
0xFFFFFFFF in replies, as R179 has it in the SERIAL notice. -/
def Counter.encode (c : Counter) : List Byte :=
  encOpt1 c.width ++ enc4 (c.next.getD (Config.absentValue .counterNext)) ++ enc4 (c.last.getD 4294967295)
    ++ encBool c.exhausted
    ++ (match c.lastDraw with
        | some d => enc1 d.station ++ enc2 d.job ++ enc1 d.entry
        | none => enc1 0 ++ enc2 0 ++ enc1 0)

/-- A burn list entry of the READ_JOB reply: its fields, its outcome and the reason of a failure. -/
def Entry.encode (e : Entry) : List Byte :=
  enc1 e.kind.code ++ encText e.partNo ++ enc1 e.template ++ enc4 e.area ++ enc1 e.pierces ++ enc1 e.outcome.code
    ++ enc1 (match e.outcome with | .failed r => r.code | _ => 0)

/-- The READ_JOB reply: the job record in the order of section 5.1, then the remaining reservation time and the
hall state (R82). DESIGN CHOICE (notes/assumptions 76): the places of the reservation and of an
entry's outcome. What the scrapped and manual flags, Askel and Mskel carry for a job that has none is a free value
(notes/assumptions 6). -/
def encJob (hall : HallState) (j : Job) : List Byte :=
  enc2 j.id ++ enc1 j.station ++ enc2 j.plate ++ enc4 j.area ++ enc2 j.thickness ++ enc1 j.grade ++ enc4 j.mass
    ++ enc2 j.nest ++ enc1 j.policy.code ++ encBool j.expedite ++ enc1 j.timer.code ++ encList Entry.encode j.entries
    ++ (match j.remnant with
        | some r => enc2 r.len ++ enc2 r.wid ++ encNotch r.notch ++ enc4 r.area ++ enc4 r.mass
        | none => enc2 0 ++ enc2 0 ++ encNotch none ++ enc4 0 ++ enc4 0)
    ++ enc1 j.state.code ++ encTag j.stagingTag ++ encBool j.cancelPending
    ++ (match j.firstFailure with
        | some (i, r) => enc1 i ++ enc1 r.code
        | none => enc1 0 ++ enc1 0)
    ++ (match j.closeOut with
        | some c =>
            enc1 c.step.code ++ encTag c.storeTag ++ encTag c.skelTag ++ encOpt2 c.remnant ++ encBool c.scrapped
              ++ enc4 (c.askel.getD (Config.absentValue .askel)) ++ enc4 (c.mskel.getD (Config.absentValue .mskel))
              ++ encBool c.manual
        | none =>
            enc1 255 ++ enc1 255 ++ enc1 255 ++ enc2 0 ++ encBool (Config.absentFlag .scrapped)
              ++ enc4 (Config.absentValue .askel) ++ enc4 (Config.absentValue .mskel)
              ++ encBool (Config.absentFlag .manual))
    ++ enc4 j.admittedAt ++ encRemaining j.timer ++ enc1 hall.code

/-- A grant as records carry it: held or not, lo, hi (R179). -/
def encGrant : Option Grant → List Byte
  | some g => encBool true ++ enc4 g.lo ++ enc4 g.hi
  | none => encBool false ++ enc4 0 ++ enc4 0

/-- A node tag as READ_CRANE carries it: a reported byte above 31 is no tag, and what goes for it is a free value (R107, R175,
notes/assumptions 60). -/
def sentTag : Option Nat → Option Nat
  | some t => if t ≤ 31 then some t else (Config.sentTag t).map Fin.val
  | none => none

/-- The READ_CRANE reply: the configuration, the record in the order of R132, the runway-stopped flag. DEDUCED
(notes/assumptions 58): an absent position is 0xFFFFFFFF and the grant is a held byte, lo and hi, as R179 has them in the CRANE
notice. DESIGN CHOICE (notes/assumptions 63): hs has 4 bytes. DESIGN CHOICE (notes/assumptions 69): the configuration, which
R132's list gives no place, stands first, as the crane, its address and the fields of SET_CRANE in their order (R102). Its
masses are in mass units, as is every mass that the part reports (00_scope.md, units). DEDUCED (notes/assumptions 77): the
load reading goes as last reported, in kg. The cleared mark is a free value with no fault (notes/assumptions 6). -/
def encCrane (c : CraneCfg) (k : Crane) (runwayStopped : Bool) : List Byte :=
  enc1 c.num ++ enc1 c.address ++ enc4 c.swl ++ enc4 c.tare ++ enc4 c.cm ++ enc2 c.tfull ++ enc2 c.tmin
    ++ enc4 c.halfSpan ++ enc4 c.limitMin ++ enc4 c.limitMax
    ++ enc4 (k.position.getD 4294967295) ++ enc1 k.activity.code ++ enc1 k.health.code ++ enc1 (linkCode k.up)
    ++ enc1 k.good ++ encGrant k.grant ++ encTag k.bound ++ enc1 k.nodePhase.code ++ encTag (sentTag k.nodeTag) ++ enc2 k.load
    ++ encBool k.stopped ++ enc1 (bitsOf [k.stopFrozen, k.stopBreach]) ++ encOpt1 k.fault
    ++ encBool (if k.fault.isSome then k.cleared else Config.absentFlag .clearedMark)
    ++ enc1 k.outbox.length ++ encBool runwayStopped

/-- The last taken number as READ_NODE carries it: a reported byte above 15 is no such number, and what goes for it is a free
value (R139, R175, notes/assumptions 60). -/
def takenCode (n : Nat) : Nat := if n ≤ 15 then n else (Config.sentTaken n).val

/-- A set of order numbers as 2 bytes, number k in bit k - 1 (R148, section 10.1; notes/assumptions 46). -/
def numberBits (l : List Nat) : Nat := bitsOf ((List.range' 1 15).map fun k => l.contains k)

/-- The READ_NODE reply in the order of R148. DESIGN CHOICE (notes/assumptions 62): the queue is one counted list, in which a
STOP is an item of its own before the numbered orders, with its order kind 0x7E, number 0 and sent mark NO. -/
def encNode (cfg : LineCfg) (line : Line) (e : Option PollEntry) (n : Node) : List Byte :=
  enc1 n.kind.code ++ enc1 n.health.code ++ enc1 n.miss ++ enc1 (takenCode n.lastTaken)
    ++ enc1 ((n.reportedKind.map NodeKind.code).getD 255) ++ enc1 n.lastAssigned ++ enc2 (numberBits n.unsettled)
    ++ (match e with
        | some e => enc1 e.position ++ enc1 e.repetition ++ enc1 e.base
        | none => enc1 0 ++ enc1 0 ++ enc1 0)
    ++ encList id ((if n.stop then [enc1 0x7E ++ enc1 0 ++ encBool false] else [])
        ++ n.orders.map fun q => enc1 q.order.kindCode ++ enc1 q.number ++ encBool q.sent)
    ++ enc1 cfg.rate.code ++ enc1 cfg.window ++ enc1 cfg.missLimit ++ enc1 cfg.roundGap
    ++ enc1 line.round ++ encBool line.broadcastPending

/-- The set of stations with an entry in progress, station 1 in bit 0. -/
def stationBits (l : List Nat) : Nat := bitsOf ([1, 2, 3, 4].map fun n => l.contains n)

/-- The READ_HALL reply in the order of R164. DESIGN CHOICE: the STOP input is 1 when ASSERTED and 0 when RELEASED
(notes/assumptions 66), the minimum side has 2 bytes, K 1 and the minimum area 4 (notes/assumptions 63), and the bay count
of the runway configuration is carried as the count of the list of bays (notes/assumptions 81). -/
def encHall (h : Hall) : List Byte :=
  let s := h.sup
  enc1 s.state.code ++ enc1 ((s.frozenFrom.map HallState.code).getD 255) ++ enc1 ((s.cause.map FreezeCause.code).getD 255)
    ++ encBool s.stopInput ++ enc4 (s.capture.getD (Config.absentValue .captureTime))
    ++ enc1 (stationBits h.fl.entryStations) ++ enc1 h.fl.movesInFlight ++ encBool h.fl.line.broadcastPending
    ++ enc4 s.clock
    ++ (match h.cfg.runway with
        | some r => enc4 r.length ++ enc4 r.separation ++ enc4 r.scrap
        | none => enc4 0 ++ enc4 0 ++ enc4 (Config.absentValue .scrapPosition))
    ++ encList (fun b : Bay => enc4 ((h.cfg.placeAt (.bay b.num)).getD 0) ++ enc1 b.stack.length ++ enc1 b.incoming)
        h.fl.bays
    ++ (match h.cfg.limits with
        | some l => enc4 l.jump ++ enc1 l.restore ++ enc1 l.pct ++ enc4 l.absmin ++ enc2 l.minSide ++ enc4 l.minArea
        | none => enc4 0 ++ enc1 (Config.absentValue .limitK) ++ enc1 0 ++ enc4 0 ++ enc2 0 ++ enc4 0)
    ++ encBool s.alert

/-- The GET_STATUS reply in the order of R173. Each station's fault follows its state and hold set: R59 has GET_STATUS report
it, where R173 names the two alone (notes/assumptions 45). DESIGN CHOICE (notes/assumptions 66): the STOP input is 1 when
ASSERTED and 0 when RELEASED. -/
def encStatus (h : Hall) (k : HostLink) : List Byte :=
  enc1 h.sup.state.code ++ enc4 h.sup.clock ++ encBool h.sup.stopInput
    ++ enc4 (h.sup.capture.getD (Config.absentValue .captureTime))
    ++ encList (fun n : Node => enc1 n.address ++ enc1 n.kind.code ++ enc1 n.health.code) h.fl.line.nodes
    ++ encList (fun s : Station => enc1 s.state.code ++ enc1 s.hold.bits ++ encOpt1 s.fault) h.fl.stations
    ++ encList (fun c : Crane => enc1 c.health.code ++ enc1 c.activity.code) h.fl.cranes
    ++ enc1 h.fl.plates.length ++ enc1 h.fl.jobs.length ++ enc1 h.fl.moves.length
    ++ encBool k.noticesLost ++ enc2 k.lostCount ++ encBool k.overrunLost ++ enc2 k.discarded

/-- The vendor text "NINPAR" (R174). -/
def vendorText : Text := [0x4E, 0x49, 0x4E, 0x50, 0x41, 0x52]
/-- The part text "BELITRA PHC-42" (R174). -/
def partText : Text := [0x42, 0x45, 0x4C, 0x49, 0x54, 0x52, 0x41, 0x20, 0x50, 0x48, 0x43, 0x2D, 0x34, 0x32]
/-- The capacity figures in the order of R174's table. DESIGN CHOICE (notes/assumptions 73): each is one bare byte, with no
count before them, and a range (slots per rack 4-16, host tags 0-15, internal tags 16-31) is two bytes, its ends. -/
def capacities : List Nat :=
  [96, 16, 8, 6, 4, 64, 4, 16, 4, 4, 16, 48, 16, 6, 32, 8, 8, 2, 32, 0, 15, 16, 31, 10, 4, 4, 8, 32, 4]
/-- The IDENTIFY reply: vendor, part, revision 1, the latched rate, the capacities (R174). -/
def encIdentity (rateHigh : Bool) : List Byte :=
  encText vendorText ++ encText partText ++ enc1 1 ++ encBool rateHigh ++ capacities.flatMap enc1

/-- The notice enable set, HALL in bit 0 (R172). -/
def encEnabled (l : List NoticeKind) : List Byte := enc2 (bitsOf (NoticeKind.all.map fun k => l.contains k))

/-! ## Notice bodies (R179) -/

/-- The kind of a notice (section 9.3). -/
def NoticeBody.kind : NoticeBody → NoticeKind
  | .hall .. => .hall
  | .node .. => .node
  | .station .. => .station
  | .entry .. => .entry
  | .job .. => .job
  | .move .. => .move
  | .crane .. => .crane
  | .slot .. => .slot
  | .wear .. => .wear
  | .serial .. => .serial

def HallCause.code : HallCause → Nat
  | .command v => v
  | .stopInput => 9 | .workFinished => 10 | .stopAsserted => 11 | .stopReleased => 12
def NodeCause.code : NodeCause → Nat | .missLimit => 0 | .report => 1 | .wrongKind => 2
def StationCause.code : StationCause → Nat
  | .stateChange => 0 | .reasonAdded => 1 | .reasonRemoved => 2 | .fault => 3 | .faultCleared => 4
def EntryCause.code : EntryCause → Nat | .started => 0 | .result => 1 | .unmatched => 2 | .withdrawn => 3
def JobCause.code : JobCause → Nat
  | .admitted => 0 | .staging => 1 | .ready => 2 | .active => 3 | .cancelDeferred => 4 | .closeOut => 5
  | .stockFull => 6 | .overweight => 7 | .liftFailed => 8 | .closed => 9
def MoveCause.code : MoveCause → Nat
  | .created => 0 | .bound => 1 | .unbound => 2 | .started => 3 | .lifted => 4 | .suspended => 5 | .resumed => 6
  | .done => 7 | .failed => 8 | .deleted => 9
def CraneCause.code : CraneCause → Nat | .health => 0 | .faultCleared => 1 | .breach => 2 | .runwayResumed => 3
def SlotCause.code : SlotCause → Nat
  | .sensorChange => 0 | .verifyIn => 1 | .verifyOut => 2 | .recheck => 3 | .placeRemnant => 4 | .acceptEmpty => 5
def WearCause.code : WearCause → Nat | .warn => 0 | .limit => 1
def SerialCause.code : SerialCause → Nat | .exhausted _ => 0 | .blocked _ => 1 | .set _ => 2

/-- The JOB_CLOSED report, 21 bytes (R179). -/
def JobReport.encode (r : JobReport) : List Byte :=
  enc2 r.plate ++ enc1 r.outcome.code ++ enc1 r.done ++ enc1 r.failed ++ enc1 r.notAttempted
    ++ (match r.firstFailure with
        | some (i, e) => enc1 i ++ enc1 e.code
        | none => enc1 0 ++ enc1 0)
    ++ encOpt2 r.remnant ++ encBool r.scrapped ++ encBool r.manual ++ encBool r.figures.isSome
    ++ encOpt4 (r.figures.map Prod.fst) ++ encOpt4 (r.figures.map Prod.snd)

/-- The code of a result an ENTRY notice shows (enumeration 12: DONE 2, FAILED 3; 0xFF, the absent enumeration, for a cause
that uses none: STARTED and WITHDRAWN, R179). -/
def entryOutcomeCode : Option Bool → Nat
  | some true => 2
  | some false => 3
  | none => 255

/-- The cause byte of a notice. -/
def NoticeBody.causeCode : NoticeBody → Nat
  | .hall c _ _ _ _ => c.code
  | .node c _ _ _ _ _ => c.code
  | .station c _ _ _ _ _ _ _ => c.code
  | .entry c _ _ _ _ _ _ _ _ _ _ => c.code
  | .job c _ _ _ _ _ _ => c.code
  | .move c _ _ _ _ _ _ _ => c.code
  | .crane c _ _ _ _ => c.code
  | .slot c _ _ _ _ _ _ => c.code
  | .wear c _ _ => c.code
  | .serial c _ => c.code

/-- An entry index as an ENTRY notice carries it: a reported byte above 48 is no index, and what goes for it is a free value
(R175, notes/assumptions 60). -/
def indexCode (i : Nat) : Nat := if i ≤ 48 then i else (Config.sentIndex i).val + 1

/-- The fields of a notice after its clock and cause (R179). DESIGN CHOICE (notes/assumptions 66): the STOP input is 1 when
ASSERTED and 0 when RELEASED. -/
def NoticeBody.fields : NoticeBody → List Byte
  | .hall _ old new stop capture => enc1 old.code ++ enc1 new.code ++ encBool stop ++ encOpt4 capture
  | .node _ a k h r n =>
      enc1 a ++ enc1 k.code ++ enc1 h.code ++ enc1 ((r.map NodeKind.code).getD 0) ++ enc1 n
  | .station _ n s hold reason jb fault cond =>
      enc1 n ++ enc1 s.code ++ enc1 hold.bits ++ enc1 ((reason.map HoldReason.bit).getD 255) ++ encOpt2 jb
        ++ encOpt1 fault ++ enc1 cond.code
  | .entry _ n jb i knd outcome reason arc pierces text serials =>
      enc1 n ++ encOpt2 jb ++ enc1 (indexCode i) ++ enc1 ((knd.map Phase.code).getD 255) ++ enc1 (entryOutcomeCode outcome)
        ++ enc1 ((reason.map FailReason.code).getD 0) ++ enc2 arc ++ enc1 pierces ++ encText text ++ encSerials serials
  | .job _ id st state remnant mskel report =>
      enc2 id ++ enc1 st ++ enc1 ((state.map JobState.code).getD 5) ++ encOpt2 remnant ++ encOpt4 mskel
        ++ ((report.map JobReport.encode).getD [])
  | .move _ m ended measured tol result pickupAt dropAt =>
      m.encode ended pickupAt dropAt ++ enc4 measured ++ enc4 tol ++ enc1 ((result.map FailReason.code).getD 0)
  | .crane _ n h p g => enc1 n ++ enc1 h.code ++ enc4 (p.getD 4294967295) ++ encGrant g
  | .slot _ r n d reg sensed t =>
      enc1 r ++ enc1 n ++ enc1 d.code ++ encOpt2 reg ++ enc1 sensed.code ++ enc1 t.code ++ encTag t.tag
  | .wear _ n v => enc1 n ++ enc2 v
  | .serial cause c =>
      enc1 c.id ++ encOpt1 c.width ++ encOpt4 c.next ++ enc4 (c.last.getD 4294967295) ++ encBool c.exhausted
        ++ (match cause with
            | .exhausted d | .blocked d => enc1 d.station ++ enc2 d.job ++ enc1 d.entry
            | .set l => encList enc1 l)

/-- The frame of a notice: its kind's code, tag 0, the clock, the cause and the fields (R166, R179). -/
def Notice.frame (n : Notice) : List Byte :=
  hostFrame n.body.kind.code 0 (enc4 n.clock ++ enc1 n.body.causeCode ++ n.body.fields)

end Sys2Proof.Machine
end

