-- ==== Sys2Proof/Machine/Queue.lean ====
section
/-! DEFINITION. The order queue of a node: room and numbers (R140), acknowledgement (R142), withdrawal (R143) and
STOP (R144); and the outbox of a crane (R106), which drains into it. -/
namespace Sys2Proof.Machine

/-! ## A node's queue -/

/-- A number that a new order may take: not the last taken, not in the queue, not unsettled (R140). -/
def Node.numberFree (n : Node) (k : Nat) : Bool :=
  k != n.lastTaken && !(n.orders.any fun q => q.number == k) && !n.unsettled.contains k

/-- The fifteen numbers in the order they are tried: upward from the last assigned, and from 15 to 1 (R140). -/
def numbersAfter (last : Nat) : List Nat := (List.range 15).map fun i => (last + i) % 15 + 1

/-- The number the next order takes: the first available one after the last assigned (R140). -/
def Node.nextNumber (n : Node) : Option Nat := (numbersAfter n.lastAssigned).find? n.numberFree

/-- The queue has room: fewer than four numbered orders and an available number (R140). -/
def Node.hasRoom (n : Node) : Bool := decide (n.orders.length < 4) && n.nextNumber.isSome

/-- A numbered order handed to the queue: the number and the queue with it, or none without room (R140). -/
def Node.hand (o : Order) (n : Node) : Option (Nat × Node) :=
  if n.orders.length < 4 then
    n.nextNumber.map fun k => (k, { n with orders := n.orders ++ [⟨o, k, false⟩], lastAssigned := k })
  else none

/-- A numbered order withdrawn: the queue without it, its number unsettled if it had been sent; none when no such
order is queued, which answers TAKEN (R143). -/
def Node.withdraw (k : Nat) (n : Node) : Option Node :=
  match n.orders.find? fun q => q.number == k with
  | none => none
  | some q =>
    some { n with orders := n.orders.filter fun q => q.number != k,
                  unsettled := if q.sent && !n.unsettled.contains k then n.unsettled ++ [k] else n.unsettled }

/-- A STOP at the head of the queue; one that stands there already is enough (R144). -/
def Node.placeStop (n : Node) : Node := { n with stop := true }

/-- The queue steps of a good report of the right kind (R142): the STOP of this visit leaves, a sent head order with
the reported number is acknowledged, the last taken is recorded and the unsettled numbers are cleared. DESIGN CHOICE
(notes/assumptions 60): a report whose number is above 15 is as good as any; it acknowledges nothing, as no order has such a
number, and the record takes the byte as it stands. -/
def Node.acknowledge (carriedStop : Bool) (taken : Nat) (n : Node) : Node :=
  { n with
    stop := n.stop && !carriedStop
    orders :=
      match n.orders with
      | q :: rest => if q.number = taken ∧ q.sent = true then rest else q :: rest
      | [] => []
    lastTaken := taken
    unsettled := [] }

/-- The frame of a visit and the node record with its head order marked sent (R141): a STOP first; then, for an UP node
outside FROZEN, the head order; else a plain poll. -/
def Node.visitFrame (hall : HallState) (n : Node) : List Byte × Node :=
  if n.stop then (stopFrame n.address, n)
  else if n.health = .up ∧ hall ≠ .frozen then
    match n.orders with
    | q :: rest => (orderFrame n.address q.number q.order, { n with orders := { q with sent := true } :: rest })
    | [] => (pollFrame n.address, n)
  else (pollFrame n.address, n)

/-! ## Owners and their nodes -/

/-- An order handed to the node at an address: refused while the hall is FROZEN (R140). Answers its number. -/
def Work.handOrder (x : Ctx) (a : Nat) (o : Order) (w : Work) : Option (Nat × Work) :=
  if x.hall = .frozen then none
  else ((w.fl.node? a).bind fun n => n.hand o).map fun r => (r.1, w.onNode a fun _ => r.2)

/-- The address of a crane's node. -/
def Ctx.craneAddress (x : Ctx) (c : Nat) : Nat := ((x.cfg.crane? c).map CraneCfg.address).getD 0
/-- The address of a station's node. -/
def Ctx.stationAddress (x : Ctx) (n : Nat) : Nat := ((x.cfg.station? n).map StationCfg.address).getD 0

/-- A crane's outbox drained from its head into its node's queue while there is room, at most `fuel` orders (R106). -/
def drainCrane (x : Ctx) (c : Nat) : Nat → Work → Work
  | 0, w => w
  | fuel + 1, w =>
    match w.fl.crane? c with
    | none => w
    | some k =>
      match k.outbox with
      | [] => w
      | o :: rest =>
        match w.handOrder x (x.craneAddress c) o with
        | none => w
        | some (_, w) => drainCrane x c fuel (w.onCrane c fun k => { k with outbox := rest })

/-- A SET_LIMIT order. -/
def Order.isSetLimit : Order → Bool
  | .setLimit _ _ => true
  | _ => false

/-- An order put at the tail of an outbox; a SET_LIMIT replaces an earlier SET_LIMIT in its place (R106). An outbox holds
up to four orders (R103). DESIGN CHOICE (notes/assumptions 39): with four waiting, an order that waits there already is not
put in again, and any other takes the place of an order that waits there twice; with four different orders waiting it is not
kept. -/
def outboxWith (o : Order) (box : List Order) : List Order :=
  if o.isSetLimit && box.any Order.isSetLimit then box.map fun p => if p.isSetLimit then o else p
  else if box.length < 4 then box ++ [o]
  else if box.contains o then box
  else (box.eraseDups ++ [o]).take 4

/-- An order produced for a crane and drained as room allows (R106). -/
def Work.craneOrder (x : Ctx) (c : Nat) (o : Order) (w : Work) : Work :=
  let w := w.onCrane c fun k => { k with outbox := outboxWith o k.outbox }
  drainCrane x c 5 w

/-- A STOP asked for the node at an address (R144). -/
def Work.askStop (a : Nat) (w : Work) : Work := w.onNode a Node.placeStop

end Sys2Proof.Machine
end

