-- ==== Sys2Proof/Machine/Stock.lean ====
section
/-! DEFINITION. The closing of a job (R100) and the Stock Manager: debounce, decisions, disputes (R23-R27), slot choice
(R41) and the fitting of FIND_STOCK (R36-R38). -/
namespace Sys2Proof.Machine

/-! ## Closing a job (R100) -/

/-- At closing, an entry still PENDING or MARKED becomes NOT_ATTEMPTED (R100). -/
def Entry.closed (e : Entry) : Entry :=
  match e.outcome with
  | .pending | .marked => { e with outcome := .notAttempted }
  | _ => e

/-- An entry whose outcome is DONE. -/
def Entry.isDone (e : Entry) : Bool := e.outcome == .done
/-- An entry whose outcome is FAILED. -/
def Entry.isFailed (e : Entry) : Bool :=
  match e.outcome with
  | .failed _ => true
  | _ => false
/-- An entry whose outcome is NOT_ATTEMPTED. -/
def Entry.isNotAttempted (e : Entry) : Bool := e.outcome == .notAttempted

/-- The JOB_CLOSED report (R100). -/
def Job.report (j : Job) (outcome : JobOutcome) (figures : Option (Nat × Nat)) : JobReport :=
  let es := j.entries.map Entry.closed
  { plate := j.plate, outcome, done := es.countP Entry.isDone, failed := es.countP Entry.isFailed,
    notAttempted := es.countP Entry.isNotAttempted, firstFailure := j.firstFailure,
    remnant := j.closeOut.bind CloseOut.remnant, scrapped := j.closeOut.any CloseOut.scrapped,
    manual := j.closeOut.any CloseOut.manual, figures }

/-- A job closes: its JOB_CLOSED report is queued and its record removed, and the queues are examined (R79, R100). -/
def Work.closeJob (x : Ctx) (id : Nat) (outcome : JobOutcome) (figures : Option (Nat × Nat)) (w : Work) : Work :=
  match w.fl.job? id with
  | none => w
  | some j =>
    let w := w.note x (.job .closed id j.station none none none (some (j.report outcome figures)))
    { w with fl := { w.fl with jobs := Table.drop Job.id id w.fl.jobs }, examine := true }

/-- A plate's hold ended by its job: FREE where it lies (R5). -/
def Work.freePlate (id : Nat) (w : Work) : Work := w.setHold id .free

/-! ## Disputes (R26, R27, R42) -/

/-- A SLOT notice showing the slot's record as it stands (R42). -/
def Work.noteSlot (x : Ctx) (r n : Nat) (cause : SlotCause) (w : Work) : Work :=
  match w.fl.slot? r n with
  | some s => w.note x (.slot cause r n s.dispute s.register s.sensed s.transfer)
  | none => w

/-- A dispute raised, cleared or replaced, with its SLOT notice (R26, R42). -/
def Work.setDispute (x : Ctx) (r n : Nat) (d : Dispute) (cause : SlotCause) (w : Work) : Work :=
  (w.onSlot r n fun s => { s with dispute := d }).noteSlot x r n cause

/-- A job has lost its material (R27, R85): a WAITING staging move is deleted, then the job closes MATERIAL_LOST. -/
def Work.loseMaterial (x : Ctx) (id : Nat) (w : Work) : Work :=
  let w :=
    match (w.fl.job? id).bind Job.stagingTag with
    | some t => if (w.fl.move? t).any fun m : Move => m.state == MoveState.waiting then w.deleteMove x t else w
    | none => w
  w.closeJob x id .materialLost none

/-- A plate found missing: its hold becomes MISSING, and a job that held it loses its material (R27). -/
def Work.plateMissing (x : Ctx) (id : Nat) (w : Work) : Work :=
  match w.fl.plate? id with
  | none => w
  | some p =>
    let w := w.setHold id .missing
    match p.hold with
    | .reserved j | .committed j => w.loseMaterial x j
    | _ => w

/-- The plate of a slot found consistent: a MISSING hold goes to FREE (R26). -/
def Work.plateFound (id : Nat) (w : Work) : Work :=
  if (w.fl.plate? id).any fun p => p.hold == .missing then w.setHold id .free else w

/-- The consistency evaluation of a slot (R26). -/
def Work.evaluateSlot (x : Ctx) (r n : Nat) (cause : SlotCause) (w : Work) : Work :=
  match w.fl.slot? r n with
  | none => w
  | some s =>
    match s.register, s.sensed with
    | some p, .empty =>
      if s.dispute = .missingPlate then w
      else (w.setDispute x r n .missingPlate cause).plateMissing x p
    | none, .occupied =>
      if s.dispute = .unexpectedObject then w else w.setDispute x r n .unexpectedObject cause
    | some p, .occupied =>
      (if s.dispute = .none then w else w.setDispute x r n .none cause).plateFound p
    | none, .empty => if s.dispute = .none then w else w.setDispute x r n .none cause
    | _, .unknown => w

/-! ## Sensing (R23, R24, R25) -/

/-- A slot awaiting a decision: VERIFY_IN or VERIFY_OUT, or recheck YES (R25). -/
def Slot.awaiting (s : Slot) : Bool := s.transfer == .verifyIn || s.transfer == .verifyOut || s.recheck

/-- A crane is working at the slot: its sensor is not evaluated (R26). -/
def Slot.inWork (s : Slot) : Bool :=
  match s.transfer with
  | .inbound _ | .outbound _ => true
  | _ => false

/-- A reported value counted: the candidate again, or a fresh candidate (R24, R25). -/
def Slot.count (flag : Sensed) (s : Slot) : Slot :=
  if s.candidate = some flag then { s with agree := s.agree + 1 } else { s with candidate := some flag, agree := 1 }

/-- What a report's flag does to the counting of a slot (R24, R25). -/
def Slot.counted (flag : Sensed) (s : Slot) : Slot :=
  if !s.awaiting && flag == s.sensed then s.restart else s.count flag

/-- The candidate confirmed as the sensed state (R24). -/
def Slot.confirm (flag : Sensed) (s : Slot) : Slot := { s.restart with sensed := flag }

/-- The cause of the evaluation that a decision leads to (R42). DESIGN CHOICE (notes/assumptions 49): a slot that awaits its
decision both by VERIFY_IN or VERIFY_OUT and by recheck YES gives the verification as the cause. -/
def Slot.decisionCause (s : Slot) : SlotCause :=
  match s.transfer with
  | .verifyIn => .verifyIn
  | .verifyOut => .verifyOut
  | _ => .recheck

/-- After the evaluation of a decision the verification ends and recheck is NO (R25). -/
def Slot.decided (s : Slot) : Slot :=
  { s with transfer := (match s.transfer with | .verifyIn | .verifyOut => .none | t => t), recheck := false }

/-- One flag of a rack report taken for a slot (R24, R25). A value confirmed while a crane works at the slot is not
evaluated, and a recheck asked before stays asked (notes/assumptions 21). -/
def Work.senseSlot (x : Ctx) (r n : Nat) (flag : Sensed) (w : Work) : Work :=
  match w.fl.slot? r n with
  | none => w
  | some s =>
    let c := s.counted flag
    if c.agree < 2 then w.onSlot r n fun _ => c
    else
      let awaited := s.awaiting
      let cause := if awaited then s.decisionCause else .sensorChange
      let w := w.onSlot r n fun _ => c.confirm flag
      if s.inWork then w
      else
        let w := w.evaluateSlot x r n cause
        if awaited then w.onSlot r n Slot.decided else w

/-- The flags of a rack report, slot 1 first, taken for the slots they cover; a slot not covered has its count cleared
(R24). -/
def senseSlots (x : Ctx) (r : Nat) : List Nat → List Bool → Work → Work
  | [], _, w => w
  | n :: ns, [], w => senseSlots x r ns [] (w.onSlot r n Slot.restart)
  | n :: ns, f :: fs, w => senseSlots x r ns fs (w.senseSlot x r n (if f then .occupied else .empty))

/-- A rack report (R24). -/
def Work.rackReport (x : Ctx) (r : Nat) (flags : List Bool) (w : Work) : Work :=
  match w.fl.rack? r with
  | none => w
  | some k => senseSlots x r (k.slots.map Slot.num) flags w

/-- A slot of a rack that is lost: UNKNOWN, nothing counted (R23). -/
def Slot.blind (s : Slot) : Slot := { s.restart with sensed := .unknown }

/-- A rack goes LOST (R23). -/
def Work.rackLost (r : Nat) (w : Work) : Work :=
  w.onRack r fun k => if k.up then { k with up := false, slots := k.slots.map Slot.blind } else k

/-- A rack comes UP: its slots stay UNKNOWN until reports confirm them (R23). -/
def Work.rackUp (r : Nat) (w : Work) : Work := w.onRack r fun k => { k with up := true }

/-- A slot record as its rack's definition creates it (R22). -/
def Slot.initial (n : Nat) : Slot := ⟨n, none, .unknown, none, 0, .none, .none, false⟩

/-- A rack record as SET_RACK creates it (R22, R23). -/
def Rack.initial (num count : Nat) : Rack := ⟨num, false, (List.range' 1 count).map Slot.initial⟩

/-! ## Slot choice (R41) -/

/-- A rack before another in the order of a store: slot area, then number (R41). -/
def RackCfg.before (a b : RackCfg) : Bool :=
  decide (a.maxL * a.maxW < b.maxL * b.maxW ∨ (a.maxL * a.maxW = b.maxL * b.maxW ∧ a.num ≤ b.num))

/-- An item put into a list sorted by `before`. -/
def insertBy (before : α → α → Bool) (a : α) : List α → List α
  | [] => [a]
  | b :: l => if before a b then a :: b :: l else b :: insertBy before a l

/-- A list sorted by `before`. -/
def sortBy (before : α → α → Bool) (l : List α) : List α := l.foldr (insertBy before) []

/-- A plate fits the slots of a rack as it lies (R41, R109 check 7). -/
def RackCfg.takes (c : RackCfg) (len wid mass : Nat) : Bool :=
  decide (len ≤ c.maxL ∧ wid ≤ c.maxW ∧ mass ≤ c.maxMass)

/-- The first slot of a rack that a store may choose (R41). -/
def Floor.slotIn (fl : Floor) (p : Plate) (c : RackCfg) : Option (Nat × Nat) :=
  if c.takes p.len p.wid p.mass then
    (fl.rack? c.num).bind fun k =>
      (k.slots.find? fun s => s.isOpen k.up && (fl.claimant c.num s.num).isNone).map fun s => (c.num, s.num)
  else none

/-- The slot chosen for a store: racks by ascending slot area then number, slots by ascending number (R41). -/
def Floor.chooseSlot (fl : Floor) (cfg : Tables) (p : Plate) : Option (Nat × Nat) :=
  (sortBy RackCfg.before cfg.racks).findSome? (fl.slotIn p)

/-! ## Finding stock (R36, R37, R38) -/

/-- Where a needed rectangle lies on a plate (R37), in the order of its code (notes/assumptions 12). -/
inductive Placement where | whole | westEnd | eastEnd | northSide | southSide
deriving DecidableEq, Repr

/-- The code of a placement in a FIND_STOCK reply (notes/assumptions 12). -/
def Placement.code : Placement → Nat
  | .whole => 0 | .westEnd => 1 | .eastEnd => 2 | .northSide => 3 | .southSide => 4

/-- The end of the plate away from a notch (R37). -/
def Corner.farEnd : Corner → Placement
  | .ne | .se => .westEnd
  | .nw | .sw => .eastEnd

/-- The side of the plate away from a notch (R37). -/
def Corner.farSide : Corner → Placement
  | .se | .sw => .northSide
  | .ne | .nw => .southSide

/-- An orientation (a along L, b across W) tested on a plate, with the placement of the first alternative that holds
(R37). -/
def fitIn (len wid : Nat) (notch : Option Notch) (a b : Nat) : Option Placement :=
  match notch with
  | none => if a ≤ len ∧ b ≤ wid then some .whole else none
  | some n =>
    if a ≤ len - n.nl ∧ b ≤ wid then some n.corner.farEnd
    else if a ≤ len ∧ b ≤ wid - n.nw then some n.corner.farSide
    else none

/-- The orientation and placement with which a plate holds a need; the unrotated one first (R37). -/
def Plate.fits (p : Plate) (needL needW : Nat) (rotate : Bool) : Option (Bool × Placement) :=
  match fitIn p.len p.wid p.notch needL needW with
  | some q => some (false, q)
  | none => if rotate then (fitIn p.len p.wid p.notch needW needL).map fun q => (true, q) else none

/-- A plate is a candidate of a search (R36). -/
def Floor.candidate (fl : Floor) (grade thickness : Nat) (p : Plate) : Bool :=
  match p.location with
  | .rack r n =>
    p.hold == .free && (fl.slot? r n).any (fun s => s.dispute == .none) && (fl.rack? r).any Rack.up
      && p.grade == grade && p.thickness == thickness
  | _ => false

/-- The ranking of the candidates: A, then registered_at, then id (R38). -/
def Plate.before (p q : Plate) : Bool :=
  decide (p.area < q.area ∨ (p.area = q.area ∧
    (p.registeredAt < q.registeredAt ∨ (p.registeredAt = q.registeredAt ∧ p.id ≤ q.id))))

/-- A search of the remnant stock: the fitting candidates ranked, the first `count` of them (R36-R38). -/
def Floor.findStock (fl : Floor) (cfg : Tables) (grade thickness needL needW : Nat) (rotate : Bool) (count : Nat) :
    List (Plate × Bool × Placement) :=
  let turn := rotate && (cfg.grade? grade).any Grade.rotation
  let fitting := (sortBy Plate.before (fl.plates.filter (fl.candidate grade thickness))).filterMap fun p =>
    (p.fits needL needW turn).map fun q => (p, q)
  fitting.take (if count = 0 then 4 else count)

end Sys2Proof.Machine
end

