-- ==== Sys2Proof/Machine/Marks.lean ====
section
/-! DEFINITION. The Mark Composer: widths (R65), usable templates (R67), draws (R69, R70) and composition (R74, R75). -/
namespace Sys2Proof.Machine

/-! ## Widths -/

/-- The width a counter counts in a worst-case width: its own, or 8 while it has none (R65). -/
def Counter.worstWidth (c : Counter) : Nat := c.width.getD 8

/-- The worst-case width of a field, each counter's width as `width` gives it (section 4.2). -/
def Field.worstWidth (width : Nat → Nat) : Field → Nat
  | .literal t => t.length
  | .job => 5
  | .partNo => 16
  | .heat => 12
  | .grade => 8
  | .thick => 5
  | .serial c => width c
  | .station => 1

/-- The worst-case width of a list of fields (R65). -/
def worstWidth (width : Nat → Nat) (fs : List Field) : Nat := (fs.map (Field.worstWidth width)).sum

/-- The counters' widths as they stand (R65). -/
def Floor.counterWidth (fl : Floor) (c : Nat) : Nat := ((fl.counter? c).map Counter.worstWidth).getD 8

/-- The counter a SERIAL field names. -/
def Field.counter? : Field → Option Nat
  | .serial c => some c
  | _ => none

/-- The counters a list of fields names, in field order. -/
def fieldCounters (fs : List Field) : List Nat := fs.filterMap Field.counter?

/-! ## Templates -/

/-- The template with an id. -/
def templateOf (ts : List Template) (id : Nat) : Option Template := Table.get Template.id id ts

/-- A template id that a PART entry may name: 0, or a defined template whose counters all have a width (R67). -/
def usableTemplate (ts : List Template) (counters : List Counter) (id : Nat) : Bool :=
  id == 0 || (templateOf ts id).any fun t =>
    (fieldCounters t.fields).all fun c => (Table.get Counter.id c counters).any fun k => k.width.isSome

/-- A job has a PART entry naming a template (R63). -/
def Job.names (t : Nat) (j : Job) : Bool := j.entries.any fun e => e.kind == .part && e.template == t

/-- The lowest id of the jobs present that reference a template (R63, R64, R66). -/
def Floor.lowestReferrer (fl : Floor) (t : Nat) : Option Nat := least ((fl.jobs.filter (Job.names t)).map Job.id)

/-! ## Rendering (R74) -/

/-- A decimal digit as a symbol. -/
def digit (d : Nat) : Byte := BitVec.ofNat 8 (0x30 + d)

/-- A number as exactly `width` decimal digits, leading zeros included. -/
def digits : Nat → Nat → Text
  | 0, _ => []
  | width + 1, n => digits width (n / 10) ++ [digit (n % 10)]

/-- How many decimal digits a number has without leading zeros, up to four. -/
def digitCount (n : Nat) : Nat := if n < 10 then 1 else if n < 100 then 2 else if n < 1000 then 3 else 4

/-- T as a decimal with one place and no leading zeros (R74). -/
def thickText (t : Nat) : Text := digits (digitCount (t / 10)) (t / 10) ++ [0x2E#8, digit (t % 10)]

/-- What a composition reads besides the counters (R74). -/
structure MarkSource where
  job     : Nat
  partNo  : Text
  heat    : Text
  grade   : Text
  thick   : Nat
  station : Nat

/-! ## Draws (R69, R70) -/

/-- The all-nines value of a counter's width (R70). -/
def Counter.allNines (c : Counter) : Nat := 10 ^ c.worstWidth - 1

/-- The value the next draw issues. -/
def Counter.toIssue (c : Counter) : Nat := c.next.getD 0

/-- A draw: the value becomes the last issued and the draw the last draw; next rises by 1, or stays at the all-nines
value, which exhausts the counter (R69, R70). -/
def Counter.draw (d : Draw) (c : Counter) : Counter :=
  if c.toIssue = c.allNines then { c with last := some c.toIssue, lastDraw := some d, exhausted := true }
  else { c with last := some c.toIssue, lastDraw := some d, next := some (c.toIssue + 1) }

/-- A SERIAL notice showing the counter's record as it stands (R78). -/
def Work.noteSerial (x : Ctx) (c : Nat) (cause : SerialCause) (w : Work) : Work :=
  match w.fl.counter? c with
  | some k => w.note x (.serial cause k)
  | none => w

/-- A counter's record changed. -/
def Work.onCounter (c : Nat) (f : Counter → Counter) (w : Work) : Work :=
  { w with fl := { w.fl with counters := Table.amend Counter.id c f w.fl.counters } }

/-- The fields rendered in order, each SERIAL by a draw, with the values drawn; a draw that exhausts its counter sends
its SERIAL notice (R69, R70, R74, R75). -/
def renderFields (x : Ctx) (src : MarkSource) (d : Draw) : List Field → Work → (Text × List (Nat × Nat)) × Work
  | [], w => (([], []), w)
  | f :: fs, w =>
    let piece : Text × List (Nat × Nat) × Work :=
      match f with
      | .literal t => (t, [], w)
      | .job => (digits 5 src.job, [], w)
      | .partNo => (src.partNo, [], w)
      | .heat => (src.heat, [], w)
      | .grade => (src.grade, [], w)
      | .thick => (thickText src.thick, [], w)
      | .serial c =>
        match w.fl.counter? c with
        | none => ([], [], w)
        | some k =>
          let w := w.onCounter c (Counter.draw d)
          let w := if k.toIssue = k.allNines then w.noteSerial x c (.exhausted d) else w
          (digits k.worstWidth k.toIssue, [(c, k.toIssue)], w)
      | .station => ([digit src.station], [], w)
    let rest := renderFields x src d fs piece.2.2
    ((piece.1 ++ rest.1.1, piece.2.1 ++ rest.1.2), rest.2)

/-- The first counter of a list that is exhausted (R75). -/
def Floor.firstExhausted (fl : Floor) (cs : List Nat) : Option Nat :=
  cs.find? fun c => (fl.counter? c).any Counter.exhausted

/-- What a composition answers: the text with its serial values, or the exhausted counter that blocks it (R75). -/
inductive Composed where
  | text (t : Text) (serials : List (Nat × Nat))
  | blocked (counter : Nat)

/-- A composition, made whole or not at all (R74, R75). A template that is not defined, which R64 and R67 rule out,
composes nothing. -/
def Work.compose (x : Ctx) (template : Nat) (src : MarkSource) (d : Draw) (w : Work) : Composed × Work :=
  let fs := ((templateOf x.templates template).map Template.fields).getD []
  match w.fl.firstExhausted (fieldCounters fs) with
  | some c => (.blocked c, w.noteSerial x c (.blocked d))
  | none =>
    let r := renderFields x src d fs w
    (.text r.1.1 r.1.2, r.2)

end Sys2Proof.Machine
end

