-- ==== Sys2Proof/Machine/Sequencers.lean ====
section
/-! DEFINITION. The Station Sequencers: station states and the park timer (R45, R56), hold reasons added (R51), the
outbox and its draining (R47, R49), and wear (R18, R54). -/
namespace Sys2Proof.Machine

/-! ## States and notices -/

/-- The park code of a station. -/
def Ctx.parkCode (x : Ctx) (n : Nat) : Nat := ((x.cfg.station? n).map StationCfg.parkCode).getD 0
/-- The wear limit of a station. -/
def Ctx.wearLimit (x : Ctx) (n : Nat) : Nat := ((x.cfg.station? n).map StationCfg.wearLimit).getD 0
/-- The warn level of a station. -/
def Ctx.warnLevel (x : Ctx) (n : Nat) : Nat := ((x.cfg.station? n).map StationCfg.warnLevel).getD 0

/-- A station in a new state: the park timer starts as it enters LOADED or HELD and is stopped in any other state
(R56). -/
def Station.goTo (hall : HallState) (code : Nat) (s : StationState) (st : Station) : Station :=
  if s = .loaded ∨ s = .held then { st with state := s, park := Timer.start hall code }
  else { st with state := s, park := st.park.stop }

/-- A station's state changed with no notice of its own. -/
def Work.enter (x : Ctx) (n : Nat) (s : StationState) (w : Work) : Work :=
  w.onStation n (Station.goTo x.hall (x.parkCode n) s)

/-- A station's state changed, with its STATION notice (R45, R62). -/
def Work.changeState (x : Ctx) (n : Nat) (s : StationState) (w : Work) : Work :=
  (w.enter x n s).noteStation x n .stateChange none

/-- An ENTRY notice of an entry that was in progress, with its text and serial values (R50, R74). -/
def Work.noteEntry (x : Ctx) (n : Nat) (cause : EntryCause) (e : InProgress) (outcome : Option Bool)
    (reason : Option FailReason) (arc pierces : Nat) (w : Work) : Work :=
  w.note x (.entry cause n ((w.fl.station? n).bind Station.job) e.index (some e.kind) outcome reason arc pierces
    e.text e.serials)

/-! ## Hold reasons added (R51) -/

/-- An order of an entry (R47). -/
def Order.isEntry : Order → Bool
  | .mark _ _ | .burn _ _ _ => true
  | _ => false

/-- Which of the four kinds of order that a station's outbox takes an order is: LOAD_PROGRAM 0, PARK 1, UNPARK 2, an entry
order 3 (R47). No other order is produced for a station. -/
def Order.outboxKind : Order → Fin 4
  | .mark _ _ | .burn _ _ _ => 3
  | .park => 1
  | .unpark => 2
  | _ => 0

/-- An order produced into a station's outbox (R47). DESIGN CHOICE (notes/assumptions 39): an order of the same kind that
still waits there leaves it, so the outbox never holds more than four orders; of the orders that a start, an end and a hold
leave waiting this takes the LOAD_PROGRAM of a job that has ended. -/
def Station.produce (o : Order) (st : Station) : Station :=
  { st with outbox := st.outbox.filter (·.outboxKind != o.outboxKind) ++ [o] }

/-- An entry order waiting in the outbox removed; an UNPARK produced for it goes with it, and parked is set back to YES
(R47). -/
def Station.dropEntryOrder (st : Station) : Station :=
  if st.outbox.any Order.isEntry then
    { st with outbox := st.outbox.filter fun o => !o.isEntry && o != .unpark,
              parked := st.parked || st.outbox.contains .unpark }
  else st

/-- The station works through a burn list. -/
def StationState.isWorking : StationState → Bool
  | .marking | .burning => true
  | _ => false

/-- What a reason newly in the set does to the station's state (R51). DEDUCED (notes/assumptions 50): NODE_LOST removes an
entry order that waits in the outbox as every other reason does (R47, R51), where R57 keeps the orders of the outbox; every
other order is kept. -/
def Station.onReason (hall : HallState) (code : Nat) (st : Station) : Station :=
  if st.state.isWorking then
    if st.entry.isSome then st.goTo hall code .holdPending else st.dropEntryOrder.goTo hall code .held
  else st

/-- The entry in progress withdrawn at a freeze (R51): when the order is still queued it leaves the queue, the entry is
no longer in progress, its ENTRY notice goes out and the station becomes HELD. -/
def Work.withdrawFrozen (x : Ctx) (n : Nat) (w : Work) : Work :=
  match (w.fl.station? n).bind Station.entry with
  | none => w
  | some e =>
    match (w.fl.node? (x.stationAddress n)).bind (Node.withdraw e.number) with
    | none => w
    | some node =>
      let w := w.onNode (x.stationAddress n) fun _ => node
      let w := w.onStation n fun st => { st with entry := none }
      (w.noteEntry x n .withdrawn e none none 0 0).enter x n .held

/-- A reason added to a station's hold set (R51), with one STATION notice when it changes the set. -/
def Work.addReason (x : Ctx) (n : Nat) (r : HoldReason) (w : Work) : Work :=
  match w.fl.station? n with
  | none => w
  | some st =>
    if st.hold.has r then w
    else
      let w := w.onStation n fun st => ({ st with hold := st.hold.set r true }).onReason x.hall (x.parkCode n)
      let w := if r = .frozen then w.withdrawFrozen x n else w
      w.noteStation x n .reasonAdded (some r)

/-! ## The outbox (R47, R49) -/

/-- What a mark's composition reads: the active job, the entry, and the plate on the bed with its grade (R74). -/
def Floor.markSource (fl : Floor) (x : Ctx) (st : Station) (index : Nat) : Option (Nat × MarkSource) :=
  (st.job.bind fl.job?).bind fun j =>
    j.entries[index - 1]?.bind fun e =>
      (st.bed.bind fl.plate?).map fun p =>
        (e.template,
         { job := j.id, partNo := e.partNo, heat := p.heat, grade := ((x.cfg.grade? p.grade).map Grade.name).getD [],
           thick := p.thickness, station := st.num })

/-- An order that is being put into the node's queue re-arms the park timer while the station is LOADED or HELD, unless
it is PARK (R56). -/
def Station.rearm (hall : HallState) (code : Nat) (o : Order) (st : Station) : Station :=
  if (st.state = .loaded ∨ st.state = .held) ∧ o ≠ .park then { st with park := Timer.start hall code } else st

/-- The head order of a station's outbox put into its node's queue; an entry order becomes the entry in progress with
its number (R47). -/
def Work.queueHead (x : Ctx) (n : Nat) (o : Order) (entry : Nat → Option InProgress) (w : Work) :
    Option Work :=
  (w.handOrder x (x.stationAddress n) o).map fun r =>
    r.2.onStation n fun st =>
      let st := ({ st with outbox := st.outbox.tail } : Station).rearm x.hall (x.parkCode n) o
      match entry r.1 with
      | some e => { st with entry := some e }
      | none => st

/-- A station's outbox drained from its head while its node's queue has room, at most `fuel` orders (R47). A MARK is
composed as it enters the queue; a composition that is blocked, or a BURN at a wear at or above the limit, is not queued
and holds the station (R49, R75). -/
def drainStation (x : Ctx) (n : Nat) : Nat → Work → Work
  | 0, w => w
  | fuel + 1, w =>
    match w.fl.station? n with
    | none => w
    | some st =>
      match st.outbox with
      | [] => w
      | o :: _ =>
        if x.hall = .frozen ∨ ¬ ((w.fl.node? (x.stationAddress n)).any Node.hasRoom = true) then w
        else
          match o with
          | .mark i _ =>
            match w.fl.markSource x st i with
            | none => w
            | some (template, src) =>
              match w.compose x template src ⟨n, src.job, i⟩ with
              | (.blocked c, w) => (w.onStation n fun st => { st with exhausted := some c }).addReason x n .serialExhausted
              | (.text t serials, w) =>
                match w.queueHead x n (.mark i t) fun k => some ⟨i, .mark, k, false, t, serials⟩ with
                | some w => drainStation x n fuel w
                | none => w
          | .burn i _ _ =>
            if x.wearLimit n ≤ st.wear then w.addReason x n .consumables
            else
              match w.queueHead x n o fun k => some ⟨i, .burn, k, false, [], []⟩ with
              | some w => drainStation x n fuel w
              | none => w
          | _ =>
            match w.queueHead x n o fun _ => none with
            | some w => drainStation x n fuel w
            | none => w

/-- The outbox of a station drained as far as it goes; it never holds more than four orders (R47, Station.produce). -/
def Work.drain (x : Ctx) (n : Nat) (w : Work) : Work := drainStation x n 5 w

/-- An entry order produced, with UNPARK before it when the station is parked; a PARK still in the outbox is removed
instead (R49, R56). -/
def Station.orderEntry (o : Order) (st : Station) : Station :=
  if st.parked then
    if st.outbox.contains .park then
      ({ st with outbox := st.outbox.filter (· != .park), parked := false } : Station).produce o
    else (({ st with parked := false } : Station).produce .unpark).produce o
  else st.produce o

/-- The park timer of a station has expired (R56): PARK is produced unless the station is parked already. -/
def Work.parkExpired (x : Ctx) (n : Nat) (w : Work) : Work :=
  match w.fl.station? n with
  | none => w
  | some st =>
    if st.park.canExpire then
      let w := w.onStation n fun st => { st with park := st.park.stop }
      if st.parked then w
      else
        (w.onStation n fun st => ({ st with parked := true } : Station).produce .park).drain x n
    else w

/-! ## Wear (R18, R54) -/

/-- The WEAR notices that a change of wear gives: WARN, then LIMIT (R54). -/
def Work.noteWear (x : Ctx) (n old new : Nat) (w : Work) : Work :=
  let warn := x.warnLevel n
  let w := if 0 < warn ∧ old < warn ∧ warn ≤ new then w.note x (.wear .warn n new) else w
  if x.wearLimit n ≤ new then w.note x (.wear .limit n new) else w

/-- A burn result charged to a station's wear (R18), with the WEAR notices of R54. Answers whether the wear is at or
above the limit. -/
def Work.chargeWear (x : Ctx) (n thickness pierces arc : Nat) (w : Work) : Bool × Work :=
  match w.fl.station? n with
  | none => (false, w)
  | some st =>
    let new := wearAfter st.wear thickness pierces arc
    let w := w.onStation n fun st => { st with wear := new }
    (decide (x.wearLimit n ≤ new), w.noteWear x n st.wear new)

/-- The thickness that a burn result is charged with: that of the plate on the bed (R18). Without one it is the active
job's, and without that a free value (notes/assumptions 7). -/
def Work.wearThickness (n : Nat) (w : Work) : Nat × Work :=
  match w.fl.station? n with
  | none => (0, w)
  | some st =>
    match st.bed.bind w.fl.plate? with
    | some p => (p.thickness, w)
    | none =>
      match st.job.bind w.fl.job? with
      | some j => (j.thickness, w)
      | none =>
        (Config.unbeddedThickness w.fl.freeTaken, { w with fl := { w.fl with freeTaken := w.fl.freeTaken + 1 } })

end Sys2Proof.Machine
end

