-- ==== Sys2Proof/Machine/JobFlow.lean ====
section
/-! DEFINITION. The flow of a job at its station: its endings and close-out (R88-R99), the choice and ordering of entries
(R49), its start (R48, R86), hold reasons removed (R52), and entry results (R50, R87). -/
namespace Sys2Proof.Machine

/-! ## The figures of a cut plate (R17, R88) -/

/-- A burn was made: an entry DONE, or FAILED for a reason other than MARK_FAILED (R88). -/
def Entry.burned (e : Entry) : Bool :=
  match e.outcome with
  | .done => true
  | .failed r => r != .markFailed
  | _ => false

/-- The plate of a job is cut (R88). -/
def Job.isCut (j : Job) : Bool := j.entries.any Entry.burned

/-- The separation entry is DONE. -/
def Job.separated (j : Job) : Bool := j.entries.any fun e => e.kind == .separation && e.isDone

/-- The sum of the areas of the entries DONE. -/
def Job.doneArea (j : Job) : Nat := ((j.entries.filter Entry.isDone).map Entry.area).sum

/-- The remnant area that counts as not in the skeleton: with the separation DONE and the remnant not scrapped (R17). -/
def Job.remnantArea (j : Job) (scrapped : Bool) : Nat :=
  if j.separated && !scrapped then (j.remnant.map RemnantDecl.area).getD 0 else 0

/-- Askel (R17). -/
def Job.askel (j : Job) (scrapped : Bool) : Nat := j.area - j.doneArea - j.remnantArea scrapped

/-- Mskel: the mass formula on Askel with the plate's T and grade density (R17, R12). -/
def Job.mskel (cfg : Tables) (j : Job) (scrapped : Bool) : Nat :=
  massOf (j.askel scrapped) j.thickness (cfg.density j.grade)

/-- The job of a station that is not QUEUED: its lead job (R83). -/
def Floor.leadJob (fl : Floor) (n : Nat) : Option Job := fl.jobs.find? fun j => j.station == n && j.state != .queued

/-! ## Endings (R88, R91, R92) -/

/-- A job ends with its plate not cut: the plate FREE on the bed, the station LOADED, the job closed (R91). -/
def Work.endUncut (x : Ctx) (j : Job) (outcome : JobOutcome) (w : Work) : Work :=
  let w := w.freePlate j.plate
  let w := (w.onStation j.station fun st => { st with job := none, phase := none }).enter x j.station .loaded
  let w := w.closeJob x j.id outcome (some (j.askel false, j.mskel x.cfg false))
  w.noteStation x j.station .stateChange none

/-- A job ends with its plate cut: CLOSING at WAIT_PARTS, the station CLEARING (R92). -/
def Work.beginCloseOut (x : Ctx) (j : Job) (outcome : JobOutcome) (w : Work) : Work :=
  let w := w.onJob j.id fun k =>
    { k with state := .closing, closeOut := some ⟨.waitParts, none, none, none, false, none, none, false, outcome⟩ }
  (w.noteJob x j.id .closeOut none none).changeState x j.station .clearing

/-- A job that became ACTIVE ends: every entry still PENDING or MARKED is NOT_ATTEMPTED, then by R91 or by close-out
(R88, R89). -/
def Work.endJob (x : Ctx) (id : Nat) (outcome : JobOutcome) (w : Work) : Work :=
  match w.fl.job? id with
  | none => w
  | some j =>
    let close : Job → Job := fun j => { j with entries := j.entries.map Entry.closed }
    let j := close j
    let w := w.onJob id close
    if j.isCut then w.beginCloseOut x j outcome else w.endUncut x j outcome

/-! ## Ordering entries (R49) -/

/-- The index, from 1, of the next mark: the first PART entry with a template and outcome PENDING (R49). -/
def nextMark (es : List Entry) : Option Nat :=
  (es.findIdx? fun e => e.kind == .part && e.template != 0 && e.outcome == .pending).map (· + 1)

/-- The index, from 1, of the next burn: the first entry PENDING or MARKED (R49). -/
def nextBurn (es : List Entry) : Option Nat :=
  (es.findIdx? fun e => e.outcome == .pending || e.outcome == .marked).map (· + 1)

/-- The BURN order of an entry: its declared pierces and the T of the plate on the bed (R49). -/
def Floor.burnOrder (fl : Floor) (st : Station) (j : Job) (i : Nat) : Order :=
  .burn i ((j.entries[i - 1]?.map Entry.pierces).getD 0)
    (((st.bed.bind fl.plate?).map Plate.thickness).getD j.thickness)

/-- An entry is ordered: HELD instead when the hold set is not empty (R49). -/
def Work.orderIt (x : Ctx) (n : Nat) (o : Order) (w : Work) : Work :=
  if (w.fl.station? n).any fun st => st.hold.isEmpty then (w.onStation n (Station.orderEntry o)).drain x n
  else w.changeState x n .held

/-- The next entry of phase BURN ordered; with none left the job's entries are complete (R49, R88). -/
def Work.orderBurn (x : Ctx) (n : Nat) (j : Job) (w : Work) : Work :=
  match nextBurn j.entries with
  | none => w.endJob x j.id .complete
  | some i =>
    match w.fl.station? n with
    | none => w
    | some st => w.orderIt x n (w.fl.burnOrder st j i)

/-- The next entry of a station's active job is chosen and ordered; with no mark left phase MARK becomes BURN (R49). -/
def Work.orderNext (x : Ctx) (n : Nat) (w : Work) : Work :=
  match w.fl.station? n with
  | none => w
  | some st =>
    match st.job.bind w.fl.job? with
    | none => w
    | some j =>
      match st.phase with
      | some .mark =>
        match nextMark j.entries with
        | some i => w.orderIt x n (.mark i [])
        | none =>
          ((w.onStation n fun st => { st with phase := some .burn }).changeState x n .burning).orderBurn x n j
      | some .burn => w.orderBurn x n j
      | none => w

/-! ## The start of a job (R48, R86) -/

/-- A station may start a READY job: LOADED, its hold set empty, the job's plate on its bed, no entry in progress
(R48). -/
def Station.mayStart (j : Job) (st : Station) : Bool :=
  st.state == .loaded && st.hold.isEmpty && st.bed == some j.plate && st.entry.isNone

/-- A READY job handed to its station (R86): started, or left READY while the station may not start it (R48). -/
def Work.handJob (x : Ctx) (id : Nat) (w : Work) : Work :=
  match w.fl.job? id with
  | none => w
  | some j =>
    if j.state = .ready ∧ (w.fl.station? j.station).any (Station.mayStart j) then
      let p : Phase := if (nextMark j.entries).isSome then .mark else .burn
      let w := (w.onJob id fun k => { k with state := .active }).noteJob x id .active none none
      let w := w.onStation j.station fun st =>
        ({ st with job := some id, phase := some p } : Station).produce (.loadProgram j.nest)
      let w := w.changeState x j.station (if p = .mark then .marking else .burning)
      w.orderNext x j.station
    else w

/-- The Job Manager, told that a station's hold set is empty, hands its READY job (R52, R86). -/
def Work.handReady (x : Ctx) (n : Nat) (w : Work) : Work :=
  match w.fl.leadJob n with
  | some j => w.handJob x j.id
  | none => w

/-! ## Hold reasons removed (R52) -/

/-- The working state of a phase. -/
def Phase.working : Phase → StationState
  | .mark => .marking
  | .burn => .burning

/-- What an emptied hold set does to the station (R52): HELD resumes and orders the next entry, HOLD_PENDING goes on with
its entry. -/
def Work.setEmptied (x : Ctx) (n : Nat) (w : Work) : Work :=
  match w.fl.station? n with
  | none => w
  | some st =>
    let back := (st.phase.map Phase.working).getD .burning
    let w :=
      if st.state = .held then (w.changeState x n back).orderNext x n
      else if st.state = .holdPending then w.changeState x n back
      else w
    w.handReady x n

/-- A reason removed from a station's hold set (R52), with its STATION notice when it changes the set. -/
def Work.removeReason (x : Ctx) (n : Nat) (r : HoldReason) (w : Work) : Work :=
  match w.fl.station? n with
  | none => w
  | some st =>
    if st.hold.has r then
      let w := (w.onStation n fun st => { st with hold := st.hold.set r false }).noteStation x n .reasonRemoved (some r)
      if (st.hold.set r false).isEmpty then w.setEmptied x n else w
    else w

/-! ## Close-out (R92-R99) -/

/-- The close-out of a job changed. -/
def Work.onCloseOut (id : Nat) (f : CloseOut → CloseOut) (w : Work) : Work :=
  w.onJob id fun j => { j with closeOut := j.closeOut.map f }

/-- The close-out condition of a station set (R62: it sends no STATION notice of its own). -/
def Work.setCond (n : Nat) (c : CloseCond) (w : Work) : Work := w.onStation n fun st => { st with cond := c }

/-- The store request of a job at step STORE with no store move (R94). Each request that finds no slot sends its STOCK_FULL
notice. -/
def Work.storeRequest (x : Ctx) (id : Nat) (w : Work) : Work :=
  match w.fl.job? id with
  | none => w
  | some j =>
    match (j.closeOut.bind CloseOut.remnant).bind w.fl.plate? with
    | none => w
    | some p =>
      match w.fl.chooseSlot x.cfg p with
      | none => (w.setCond j.station .stockFull).noteJob x id .stockFull (some p.id) none
      | some (r, s) =>
        match w.createMove x (.job id) .remnantStore (.plate p.id) (some (.station j.station)) (.slot r s) j.expedite with
        | (none, w) => w
        | (some t, w) => (w.onCloseOut id fun c => { c with storeTag := some t }).setCond j.station .none

/-- The skeleton move of a job at step SKELETON with none (R97): OVERWEIGHT when no configured crane passes. -/
def Work.skeletonRequest (x : Ctx) (id : Nat) (w : Work) : Work :=
  match w.fl.job? id with
  | none => w
  | some j =>
    let m := (j.closeOut.bind CloseOut.mskel).getD 0
    if x.cfg.cranes.any fun c => x.lifts c m j.thickness j.grade then
      match w.createMove x (.job id) .skeletonOut (.skeleton j.station m j.thickness j.grade) (some (.station j.station))
          .scrap j.expedite with
      | (none, w) => w
      | (some t, w) => w.onCloseOut id fun c => { c with skelTag := some t }
    else (w.setCond j.station .overweight).noteJob x id .overweight none (some m)

/-- SKELETON begins: Askel and Mskel are computed and the skeleton move is asked for (R97). DESIGN CHOICE (notes/assumptions
55): the recorded store move tag is cleared, as the rest of the store move goes on without the job (R96). -/
def Work.beginSkeleton (x : Ctx) (id : Nat) (w : Work) : Work :=
  match w.fl.job? id with
  | none => w
  | some j =>
    let scrapped := j.closeOut.any CloseOut.scrapped
    (w.onCloseOut id fun c =>
      { c with step := .skeleton, storeTag := none, askel := some (j.askel scrapped),
               mskel := some (j.mskel x.cfg scrapped) }).skeletonRequest x id

/-- The remnant record that the rewrite of a cut plate creates (R2, R93). -/
def Plate.rewritten (x : Ctx) (old : Plate) (j : Job) (d : RemnantDecl) (id : Nat) : Plate :=
  let a := areaOf d.len d.wid d.notch
  { id, kind := .remnant, grade := old.grade, thickness := old.thickness, heat := old.heat, len := d.len, wid := d.wid,
    notch := d.notch, area := a, mass := massOf a old.thickness (x.cfg.density old.grade),
    generation := min 15 (old.generation + 1), parent := some old.id, location := .station j.station, hold := .free,
    registeredAt := x.clock }

/-- STORE begins: the cut plate is rewritten as the remnant and the store is requested (R93, R94). -/
def Work.beginStore (x : Ctx) (id : Nat) (w : Work) : Work :=
  match w.fl.job? id with
  | none => w
  | some j =>
    match w.fl.plate? j.plate, j.remnant with
    | some old, some d =>
      let new := Plate.rewritten x old j d w.fl.issueId
      let w := (w.addPlate new).deletePlate old.id
      let w := w.onStation j.station fun st => { st with bed := some new.id }
      (w.onCloseOut id fun c => { c with step := .store, remnant := some new.id }).storeRequest x id
    | _, _ => w

/-- PARTS_CLEARED reaches a job waiting for it (R92). -/
def Work.partsCleared (x : Ctx) (id : Nat) (w : Work) : Work :=
  match w.fl.job? id with
  | none => w
  | some j =>
    if j.step? = some .waitParts then
      if j.separated then w.beginStore x id else w.beginSkeleton x id
    else w

/-- A store or skeleton move has failed its load-cell check: LIFT_FAILED (R96, R98). DESIGN CHOICE (notes/assumptions 55):
the recorded tag of the failed move is cleared. -/
def Work.liftFailed (x : Ctx) (id : Nat) (w : Work) : Work :=
  match w.fl.job? id with
  | none => w
  | some j =>
    let atStore := j.step? == some .store
    let w := w.onCloseOut id fun c => if atStore then { c with storeTag := none } else { c with skelTag := none }
    (w.setCond j.station .liftFailed).noteJob x id .liftFailed
      (if atStore then j.closeOut.bind CloseOut.remnant else none)
      (if atStore then none else j.closeOut.bind CloseOut.mskel)

/-- END of a close-out (R99): a cut plate that was not rewritten is deleted, the station becomes VACANT, the job
closes. -/
def Work.closeOutEnd (x : Ctx) (id : Nat) (w : Work) : Work :=
  match w.fl.job? id with
  | none => w
  | some j =>
    let w := if j.separated then w else w.deletePlate j.plate
    let w := (w.onStation j.station fun st => { st with job := none, phase := none, cond := .none }).enter x j.station
      .vacant
    let figures := j.closeOut.bind fun c => c.askel.bind fun a => c.mskel.map fun m => (a, m)
    let w := w.closeJob x id ((j.closeOut.map CloseOut.outcome).getD .complete) figures
    (w.noteStation x j.station .stateChange none).wantScan

/-! ## Entry results (R50, R87, R88) -/

/-- The outcome that a result gives its entry (R87). -/
def resultOutcome (kind : Phase) (failure : Option FailReason) : EntryOutcome :=
  match kind, failure with
  | .mark, none => .marked
  | .mark, some _ => .failed .markFailed
  | .burn, none => .done
  | .burn, some r => .failed r

/-- The reason of a failed outcome. -/
def EntryOutcome.reason? : EntryOutcome → Option FailReason
  | .failed r => some r
  | _ => none

/-- A result recorded in the burn list, and as the first failure when it is one (R87). -/
def Job.record (index : Nat) (o : EntryOutcome) (j : Job) : Job :=
  { j with entries := j.entries.modify (index - 1) fun e => { e with outcome := o }
           firstFailure := j.firstFailure.or (o.reason?.map fun r => (index, r)) }

/-- A result ends its job: FAILED under STOP (R88). -/
def Job.endsOn (o : EntryOutcome) (j : Job) : Bool := o.reason?.isSome && j.policy == .stop

/-- What follows a result whose job goes on (R50, R54): CONSUMABLES at the wear limit, HELD from HOLD_PENDING, and the
next entry when the station still works. -/
def Work.afterResult (x : Ctx) (n : Nat) (limit : Bool) (w : Work) : Work :=
  match w.fl.station? n with
  | none => w
  | some st =>
    let waits := st.state == .holdPending
    let w := if waits then w.enter x n .held else w
    if limit && !st.hold.consumables then w.addReason x n .consumables
    else if waits then w.noteStation x n .stateChange none
    else w.orderNext x n

/-- The result of the entry in progress (R50), by its steps: the entry cleared, the wear charged, the ENTRY notice, the
Job Manager's record and answer, then what follows at the station. -/
def Work.entryResult (x : Ctx) (n : Nat) (failure : Option FailReason) (arc pierces : Nat) (w : Work) : Work :=
  match w.fl.station? n with
  | none => w
  | some st =>
    match st.entry with
    | none => w
    | some e =>
      let w := w.onStation n fun st => { st with entry := none }
      let charged : Bool × Work :=
        if e.kind = .burn then
          let t := w.wearThickness n
          t.2.chargeWear x n t.1 pierces arc
        else (false, w)
      let w := charged.2.noteEntry x n .result e (some failure.isNone) failure arc pierces
      match st.job with
      | none => w
      | some id =>
        let o := resultOutcome e.kind failure
        let w := w.onJob id (Job.record e.index o)
        if (w.fl.job? id).any (Job.endsOn o) then
          let w := w.endJob x id .stoppedOnFailure
          if charged.1 then w.addReason x n .consumables else w
        else w.afterResult x n charged.1

/-- A finish that is not the entry in progress (R50): its wear if it is a burn, and an UNMATCHED ENTRY notice. DEDUCED
(notes/assumptions 51): that wear is compared as R54 says of a burn result's increment, with its WEAR notices and CONSUMABLES
at the limit. -/
def Work.unmatched (x : Ctx) (n index : Nat) (kind : Option Phase) (failure : Option FailReason) (arc pierces : Nat)
    (w : Work) : Work :=
  let charged : Bool × Work :=
    if kind = some .burn then
      let t := w.wearThickness n
      t.2.chargeWear x n t.1 pierces arc
    else (false, w)
  let w := charged.2.note x (.entry .unmatched n ((w.fl.station? n).bind Station.job) index kind (some failure.isNone)
    failure arc pierces [] [])
  if charged.1 then w.addReason x n .consumables else w

end Sys2Proof.Machine
end

