-- ==== Sys2Proof/Machine/Cranes.lean ====
section
/-! DEFINITION. The Crane Dispatcher: binding (R115), grants and yields (R116-R119), trimming and breach (R120, R121),
phases and the load-cell check (R123-R126), suspension and resumption (R127, R131), and health (R128-R130). -/
namespace Sys2Proof.Machine

/-! ## Extents (R116, R117) -/

/-- The stretch of runway from the least to the greatest of some positions, widened by a half-span and clamped (R116,
R117). -/
def extentOf (length halfSpan : Nat) (p : Nat) (others : List Nat) : Grant :=
  { lo := others.foldl min p - halfSpan, hi := min length (others.foldl max p + halfSpan) }

/-- A crane's span at a position (R116). -/
def spanOf (length halfSpan p : Nat) : Grant := extentOf length halfSpan p []

/-- A stretch lies within a grant. -/
def Grant.holds (g s : Grant) : Bool := decide (g.lo ≤ s.lo ∧ s.hi ≤ g.hi)

/-- The intersection of two stretches. -/
def Grant.meet (a b : Grant) : Grant := ⟨max a.lo b.lo, min a.hi b.hi⟩

/-- The SET_LIMIT of a grant: the centre positions whose span lies within it (R116). -/
def Grant.limits (length halfSpan : Nat) (g : Grant) : Order :=
  .setLimit (if g.lo = 0 then 0 else g.lo + halfSpan) (if g.hi = length then length else g.hi - halfSpan)

/-- The half-span of a crane. -/
def Ctx.halfSpan (x : Ctx) (c : Nat) : Nat := ((x.cfg.crane? c).map CraneCfg.halfSpan).getD 0

/-- A stretch keeps the separation for a crane against the other crane's grant, if that holds one (R116, R117). -/
def keepsSeparation (separation c : Nat) (g : Grant) (other : Option Grant) : Bool :=
  match other with
  | none => true
  | some o => if c = 1 then decide (g.hi + separation ≤ o.lo) else decide (o.hi + separation ≤ g.lo)

/-- The number of the other crane. -/
def otherCrane (c : Nat) : Nat := if c = 1 then 2 else 1

/-- The other crane's grant. -/
def Floor.otherGrant (fl : Floor) (c : Nat) : Option Grant := (fl.crane? (otherCrane c)).bind Crane.grant

/-- The current position of a crane's record; 0 without one. -/
def Floor.positionOf (fl : Floor) (c : Nat) : Nat := ((fl.crane? c).bind Crane.position).getD 0

/-- The phase whose points a move still has to reach: its own, or the one it is suspended in (R120). -/
def Move.phase? (m : Move) : Option MovePhase :=
  match m.state with
  | .phase p | .suspended p _ => some p
  | _ => none

/-- The position of a move's pickup, where its load lies now. -/
def Ctx.pickupAt (x : Ctx) (fl : Floor) (m : Move) : Option Nat := (fl.pickupOf m).bind x.cfg.placeAt

/-- The points that a move still has to reach (R120). -/
def Ctx.remaining (x : Ctx) (fl : Floor) (m : Move) : List Nat :=
  let drop := (x.cfg.placeAt m.drop).toList
  match m.phase? with
  | some .toDrop | some .setDownWait => drop
  | _ => (x.pickupAt fl m).toList ++ drop

/-- The needed extent of a bound move (R117). -/
def Ctx.neededExtent (x : Ctx) (fl : Floor) (c : Nat) (m : Move) : Grant :=
  extentOf x.cfg.runwayLength (x.halfSpan c) (fl.positionOf c)
    ((x.pickupAt fl m).toList ++ (x.cfg.placeAt m.drop).toList)

/-- SET_LIMIT produced for a crane's grant as it stands (R116). -/
def Work.produceLimit (x : Ctx) (c : Nat) (w : Work) : Work :=
  match (w.fl.crane? c).bind Crane.grant with
  | some g => w.craneOrder x c (g.limits x.cfg.runwayLength (x.halfSpan c))
  | none => w

/-- A crane's grant set, and SET_LIMIT produced (R116). -/
def Work.setGrant (x : Ctx) (c : Nat) (g : Grant) (w : Work) : Work :=
  (w.onCrane c fun k => { k with grant := some g }).produceLimit x c

/-! ## Claims (R115, R6, R29, R46) -/

/-- The places a move uses are claimed at its binding (R115). -/
def Work.claimPlaces (x : Ctx) (m : Move) (w : Work) : Work :=
  let w :=
    match w.fl.pickupOf m with
    | some (.bay b) => w.onBay b fun k => { k with claim := some m.tag }
    | some (.slot r n) => w.onSlot r n fun s => { s with transfer := .outbound m.tag }
    | _ => w
  match m.drop with
  | .bay b => w.onBay b fun k => { k with incoming := k.incoming + 1 }
  | .slot r n => w.onSlot r n fun s => { s with transfer := .inbound m.tag }
  | .station s => (w.onStation s fun st => { st with claim := some m.tag }).changeState x s .receiving
  | _ => w

/-- A slot's transfer returned to NONE with recheck (R29). The return is none of the slot-freed events of R31: what
follows at the same event, the move's end or a scan, is told by its own rule. -/
def Work.returnSlot (r n : Nat) (t : Transfer) (w : Work) : Work :=
  let f : Slot → Slot := fun s => if s.transfer = t then s.returned else s
  let racks := Table.amend Rack.num r (fun k => { k with slots := Table.amend Slot.num n f k.slots }) w.fl.racks
  { w with fl := { w.fl with racks := racks } }

/-- The pickup of a move released: its bay claim cleared, or its slot returned with recheck (R6, R29). -/
def Work.releasePickup (m : Move) (w : Work) : Work :=
  match w.fl.pickupOf m with
  | some (.bay b) => w.onBay b fun k => if k.claim = some m.tag then { k with claim := none } else k
  | some (.slot r n) => w.returnSlot r n (.outbound m.tag)
  | _ => w

/-- The drop of a move released: the bay's incoming count falls, the slot returns with recheck, the station's claim is
cleared and the station becomes VACANT (R6, R29, R46). -/
def Work.releaseDrop (x : Ctx) (m : Move) (w : Work) : Work :=
  match m.drop with
  | .bay b => w.onBay b fun k => { k with incoming := k.incoming - 1 }
  | .slot r n => w.returnSlot r n (.inbound m.tag)
  | .station s =>
    if (w.fl.station? s).any fun st => st.claim == some m.tag then
      ((w.onStation s fun st => { st with claim := none }).changeState x s .vacant).wantScan.wantExamine
    else w
  | _ => w

/-- A crane loses its move: no bound move, IDLE (R115, R126). -/
def Work.idleCrane (c : Nat) (w : Work) : Work :=
  (w.onCrane c fun k => { k with bound := none, activity := .idle }).wantScan

/-- A move fails: its MOVE notice, and its record leaves the queue (R107, R132). -/
def Work.failMove (x : Ctx) (m : Move) (r : FailReason) (w : Work) : Work :=
  (w.noteMove x .failed m (some (.failed r))).removeMove m

/-- A BOUND move unbound (R115); with its expired wait mark set it fails WAIT_EXPIRED (R111). -/
def Work.unbind (x : Ctx) (t : Nat) (w : Work) : Work :=
  match w.fl.move? t with
  | none => w
  | some m =>
    match m.crane with
    | none => w
    | some c =>
      let free : Move → Move := fun m => { m with state := .waiting, crane := none, causedYield := none }
      let m' := free m
      let w := (w.onMove t free).noteMove x .unbound m' none
      let w := ((w.releasePickup m).releaseDrop x m).idleCrane c
      if m.expired then w.failMove x m' .waitExpired else w

/-! ## Binding and grants (R115, R117, R118) -/

/-- A move bound to a crane (R115); the grant is attempted apart. -/
def Work.bind (x : Ctx) (t c : Nat) (w : Work) : Work :=
  let w := w.onMove t fun m => { m with state := .bound, crane := some c }
  let w := w.onCrane c fun k => { k with bound := some t, activity := .bound }
  let w := w.noteMoveTag x .bound t
  match w.fl.move? t with
  | some m => w.claimPlaces x m
  | none => w

/-- The MOVE order of a move in a mode (R105, R177). -/
def Ctx.moveOrder (x : Ctx) (fl : Floor) (m : Move) (mode : MoveMode) : Order :=
  let pickup := if mode = .transfer then (fl.pickupOf m).bind fun p => (x.cfg.placeAt p).map fun a => (p, a) else none
  .move m.tag mode pickup (m.drop, (x.cfg.placeAt m.drop).getD 0)

/-- A grant is made for a bound move (R117, steps 1-5). -/
def Work.grantMove (x : Ctx) (c : Nat) (m : Move) (g : Grant) (w : Work) : Work :=
  let isYield := m.kind == .yield
  let w := (w.onCrane c fun k => { k with activity := .moving }).setGrant x c g
  let w := w.craneOrder x c (x.moveOrder w.fl m (if isYield then .travel else .transfer))
  let w := w.onMove m.tag fun k =>
    { k with state := .phase (if isYield then .toDrop else .toPickup), wait := k.wait.stop, expired := false }
  w.noteMoveTag x .started m.tag

/-- The target of the yield that would clear the way of a blocked crane's needed extent (R118). -/
def Ctx.yieldTarget (x : Ctx) (c : Nat) (needed : Grant) : Option Nat :=
  let s := x.cfg.separation
  let h := x.halfSpan (otherCrane c)
  if c = 1 then some (needed.hi + s + h)
  else if s + h ≤ needed.lo then some (needed.lo - s - h) else none

/-- The extent that a yield of the other crane needs. -/
def Ctx.yieldExtent (x : Ctx) (fl : Floor) (c target : Nat) : Grant :=
  extentOf x.cfg.runwayLength (x.halfSpan c) (fl.positionOf c) [target]

/-- The yield target for a blocked crane when a yield is possible (R118): the other crane free, a tag free, the target
within its limits, and the yield's own extent keeping the separation (R117). -/
def Ctx.yieldFor (x : Ctx) (fl : Floor) (c : Nat) (needed : Grant) : Option Nat :=
  (x.yieldTarget c needed).filter fun t =>
    let o := otherCrane c
    (fl.crane? o).any Crane.isFree && fl.freeTag.isSome && (x.cfg.crane? o).any (fun k => k.reaches t)
      && keepsSeparation x.cfg.separation o (x.yieldExtent fl o t) ((fl.crane? c).bind Crane.grant)

/-- A YIELD created, bound to the other crane and granted at once; the blocked move records it (R118). -/
def Work.makeYield (x : Ctx) (c blocked target : Nat) (w : Work) : Work :=
  match w.createMove x .yield .yield .none none (.position target) false (waitingFor := some blocked) with
  | (none, w) => w
  | (some t, w) =>
    let o := otherCrane c
    let w := w.onMove blocked fun m => { m with causedYield := some t }
    let w := w.bind x t o
    match w.fl.move? t with
    | some m => w.grantMove x o m (x.yieldExtent w.fl o target)
    | none => w

/-- The grant of a bound move attempted (R117): made when it keeps the separation; else a yield; else the move is unbound.
While the runway is stopped no grant is made and the move stays BOUND (R121). -/
def Work.attemptGrant (x : Ctx) (t : Nat) (w : Work) : Work :=
  match w.fl.move? t with
  | none => w
  | some m =>
    match m.crane with
    | none => w
    | some c =>
      if w.fl.runwayStopped then w
      else
        let g := x.neededExtent w.fl c m
        if keepsSeparation x.cfg.separation c g (w.fl.otherGrant c) then w.grantMove x c m g
        else
          match x.yieldFor w.fl c g with
          | some target => w.makeYield x c t target
          | none => w.unbind x t

/-! ## The end of a move (R126, R119) -/

/-- A free crane returns to its own extent: NORMAL and holding a grant, its grant becomes its span within the old grant
(R126). -/
def Work.ownExtent (x : Ctx) (c : Nat) (w : Work) : Work :=
  match w.fl.crane? c with
  | none => w
  | some k =>
    match k.grant, k.health with
    | some g, .normal =>
      w.setGrant x c ((spanOf x.cfg.runwayLength (x.halfSpan c) (k.position.getD 0)).meet g)
    | _, _ => w

/-- A move's crane released and its record removed (R126, R107). -/
def Work.moveEnd (x : Ctx) (m : Move) (w : Work) : Work :=
  let w :=
    match m.crane with
    | some c => (w.idleCrane c).ownExtent x c
    | none => w
  w.removeMove m

/-- A yield has ended (R119): the grant of the move it was made for is retried if that is still BOUND. -/
def Work.retryWaiting (x : Ctx) (yielded : Move) (w : Work) : Work :=
  match yielded.waitingFor with
  | none => w
  | some t =>
    if (w.fl.move? t).any fun m => m.state == .bound && m.causedYield == some yielded.tag then
      (w.onMove t fun m => { m with causedYield := none }).attemptGrant x t
    else w

/-- A YIELD at its target is DONE (R119). -/
def Work.yieldDone (x : Ctx) (m : Move) (w : Work) : Work :=
  ((w.noteMove x .done m (some .done)).moveEnd x m).retryWaiting x m

/-! ## The lift (R123, R124, R125) -/

/-- A job's reservation ended by a failed check of a host move (R125), or its commitment (notes/assumptions 22): the job
closes MATERIAL_REJECTED, and a WAITING staging move of it is deleted. -/
def Work.rejectHeld (x : Ctx) (h : Hold) (w : Work) : Work :=
  match h with
  | .reserved j => w.closeJob x j .materialRejected none
  | .committed j =>
    let w :=
      match (w.fl.job? j).bind Job.stagingTag with
      | some t => if (w.fl.move? t).any fun m : Move => m.state == MoveState.waiting then w.deleteMove x t else w
      | none => w
    w.closeJob x j .materialRejected none
  | _ => w

/-- A passed check: CONTINUE, and the load leaves its pickup (R124). -/
def Work.liftPassed (x : Ctx) (c : Nat) (m : Move) (w : Work) : Work :=
  let w := w.craneOrder x c (.continue m.tag)
  let w := w.onMove m.tag fun k => { k with state := .phase .toDrop }
  match m.load with
  | .plate id =>
    match w.fl.plate? id with
    | none => w
    | some p =>
      let w :=
        match p.location with
        | .bay b _ => w.onBay b fun k => if k.claim = some m.tag then { k with claim := none } else k
        | .rack r n => w.onSlot r n fun s => { s.restart with transfer := .verifyOut }
        | _ => w
      let w := (w.leavePlace id p.location).setLocation id (.crane c)
      match m.kind, m.origin with
      | .remnantStore, .job j => w.beginSkeleton x j
      | _, _ => w
  | _ => w

/-- A failed check: LOWER_BACK, the move FAILED, its plate QUARANTINED where it lies, its places released, and its job
told (R125). -/
def Work.liftRejected (x : Ctx) (c : Nat) (m : Move) (r : FailReason) (w : Work) : Work :=
  let w := w.craneOrder x c (.lowerBack m.tag)
  let w := w.noteMove x .failed m (some (.failed r))
  let held : Hold :=
    match m.load with
    | .plate id => ((w.fl.plate? id).map Plate.hold).getD .free
    | _ => .free
  let w :=
    match m.load with
    | .plate id => w.setHold id .quarantined
    | _ => w
  let w :=
    match m.origin with
    | .job j =>
      match m.kind with
      | .remnantStore | .skeletonOut => w.liftFailed x j
      | _ =>
        let pending := (w.fl.job? j).any Job.cancelPending
        w.closeJob x j (if pending then .cancelled else .materialRejected) none
    | .host => w.rejectHeld x held
    | .yield => w
  ((w.releasePickup m).releaseDrop x m).moveEnd x m

/-- LIFTED taken in LIFT_CHECK: the load-cell check of R15 with the bound crane's allowance, its MOVE notice first
(R123). -/
def Work.lifted (x : Ctx) (c : Nat) (m : Move) (reading : Nat) (w : Work) : Work :=
  match w.fl.loadFigures m.load, x.cfg.crane? c with
  | some (mass, thickness, grade), some k =>
    let measured := reading * 10
    let limits := x.cfg.limits
    let tol := tolerance ((limits.map Limits.absmin).getD 0) ((limits.map Limits.pct).getD 0) mass
    let result := loadCell measured (allowance k thickness (x.cfg.factor grade)) mass tol
    let w := w.note x
      (.move .lifted m none measured tol result (m.pickup.bind x.cfg.placeAt) ((x.cfg.placeAt m.drop).getD 0))
    match result with
    | none => w.liftPassed x c m
    | some r => w.liftRejected x c m r
  | _, _ => w

/-! ## The set-down (R126) -/

/-- A plate arrives at a bay, slot or station (R4, R126). -/
def Work.plateArrives (x : Ctx) (m : Move) (id : Nat) (w : Work) : Work :=
  match m.drop with
  | .bay b =>
    let w := (w.onBay b fun k => { k with incoming := k.incoming - 1 }).pushBay b id
    w.setLocation id (.bay b (w.fl.depth b))
  | .slot r n =>
    (w.onSlot r n fun s => { s.restart with register := some id, transfer := .verifyIn }).setLocation id (.rack r n)
  | .station s =>
    ((w.onStation s fun st => { st with bed := some id, claim := none }).enter x s .loaded).setLocation id (.station s)
  | .scrap => w.deletePlate id
  | .position _ => w

/-- A staging move has set its plate down on the bed: the job becomes READY, or its deferred cancellation completes
(R85, R90). The job's own notice precedes the station's (R101). -/
def Work.stagedArrives (x : Ctx) (j : Job) (w : Work) : Work :=
  let w := w.onJob j.id fun k => { k with stagingTag := none }
  if j.cancelPending then
    ((w.freePlate j.plate).closeJob x j.id .cancelled none).noteStation x j.station .stateChange none
  else
    let w := (w.onJob j.id fun k => { k with state := .ready }).noteJob x j.id .ready none none
    (w.noteStation x j.station .stateChange none).handJob x j.id

/-- SET_DOWN_DONE taken in SET_DOWN_WAIT: the move is DONE and its load arrives at its drop (R126). -/
def Work.setDown (x : Ctx) (m : Move) (w : Work) : Work :=
  let w := w.noteMove x .done m (some .done)
  let w :=
    match m.load with
    | .plate id =>
      let w := w.plateArrives x m id
      match m.drop with
      | .station s =>
        match w.fl.originJob m with
        | some k => w.stagedArrives x k
        | none => w.noteStation x s .stateChange none
      | _ => w
    | .skeleton _ _ _ _ =>
      match m.origin with
      | .job j => w.closeOutEnd x j
      | _ => w
    | .none => w
  w.moveEnd x m

/-! ## Crane events (R105) -/

/-- The events of a move that a crane node reports. -/
inductive CraneEvent where | atPickup | lifted | atDrop | setDown
deriving DecidableEq, Repr

/-- The place of an event in the order of R105. -/
def CraneEvent.rank : CraneEvent → Nat
  | .atPickup => 1 | .lifted => 2 | .atDrop => 3 | .setDown => 4

/-- How far a node phase shows a move to have come (R105). -/
def NodePhase.rank : NodePhase → Nat
  | .atPickup => 1 | .loadHeld => 2 | .atDrop => 3 | .setDown => 4
  | _ => 0

/-- The event that a phase awaits. -/
def MovePhase.awaits : MovePhase → CraneEvent
  | .toPickup => .atPickup
  | .liftCheck => .lifted
  | .toDrop => .atDrop
  | .setDownWait => .setDown

/-- What a report shows of a move: an event of its own with a reading, and the rank of its node phase with the status
block's reading. -/
structure Shown where
  event   : Option CraneEvent
  reading : Nat
  rank    : Nat
  load    : Nat

/-- The report shows an event (R105): by the event itself or by a node phase that stands for it. -/
def Shown.shows (s : Shown) (e : CraneEvent) : Bool := s.event == some e || decide (e.rank ≤ s.rank)

/-- The reading of a LIFTED: the event's own, or the status block's when it is taken from a phase (R105). -/
def Shown.liftReading (s : Shown) : Nat := if s.event = some .lifted then s.reading else s.load

/-- One event taken for a move in a phase (R123, R126). -/
def Work.takeEvent (x : Ctx) (c : Nat) (m : Move) (p : MovePhase) (reading : Nat) (w : Work) : Work :=
  match p with
  | .toPickup => w.onMove m.tag fun k => { k with state := .phase .liftCheck }
  | .liftCheck => w.lifted x c m reading
  | .toDrop =>
    if m.kind = .yield then w.yieldDone x m else w.onMove m.tag fun k => { k with state := .phase .setDownWait }
  | .setDownWait => w.setDown x m

/-- The event that a move awaits in a phase ends it (R126): a set-down, and for a YIELD its arrival. -/
def Move.endsAt (m : Move) (p : MovePhase) : Bool := p == .setDownWait || (p == .toDrop && m.kind == .yield)

/-- The events that a report shows for a move, taken in order, at most `fuel` of them (R105). The event that ends the move is
the last: its tag is free then, and a further YIELD that takes it is another move (R119). -/
def takeEvents (x : Ctx) (c t : Nat) (s : Shown) : Nat → Work → Work
  | 0, w => w
  | fuel + 1, w =>
    match w.fl.move? t with
    | none => w
    | some m =>
      match m.state with
      | .phase p =>
        if m.crane = some c ∧ s.shows p.awaits = true then
          let w := w.takeEvent x c m p s.liftReading
          if m.endsAt p then w else takeEvents x c t s fuel w
        else w
      | _ => w

/-! ## Suspension and resumption (R127, R131) -/

/-- The four causes of a suspension (R107). -/
inductive SuspendCause where | frozen | breach | degraded | faulted
deriving DecidableEq, Repr

/-- The set holds a cause. -/
def SuspendSet.has (s : SuspendSet) : SuspendCause → Bool
  | .frozen => s.frozen
  | .breach => s.breach
  | .degraded => s.degraded
  | .faulted => s.faulted

/-- The set with a cause present or absent. -/
def SuspendSet.set (s : SuspendSet) (c : SuspendCause) (v : Bool) : SuspendSet :=
  match c with
  | .frozen => { s with frozen := v }
  | .breach => { s with breach := v }
  | .degraded => { s with degraded := v }
  | .faulted => { s with faulted := v }

/-- A move suspended with a cause, or the cause added to a move that is suspended already (R121, R127). -/
def Work.suspend (x : Ctx) (t : Nat) (c : SuspendCause) (w : Work) : Work :=
  match w.fl.move? t with
  | none => w
  | some m =>
    match m.state with
    | .phase p =>
      (w.onMove t fun k => { k with state := .suspended p (({} : SuspendSet).set c true) }).noteMoveTag x .suspended t
    | .suspended p s =>
      if s.has c then w
      else (w.onMove t fun k => { k with state := .suspended p (s.set c true) }).noteMoveTag x .suspended t
    | _ => w

/-- Every move in a phase or suspended gets a cause (R121, R127). -/
def Work.suspendAll (x : Ctx) (c : SuspendCause) (w : Work) : Work :=
  (w.fl.moves.map Move.tag).foldl (fun w t => w.suspend x t c) w

/-- The mode in which a move whose node has lost the work is ordered again (R131). -/
def Move.againMode (m : Move) (p : MovePhase) : MoveMode :=
  if m.kind = .yield then .travel
  else
    match p with
    | .toPickup | .liftCheck => .transfer
    | .toDrop | .setDownWait => .deliver

/-- A move whose last cause is removed resumes from the node phase of its crane's record (R131). DESIGN CHOICE
(notes/assumptions 70): a node that shows the move's tag at a phase before the suspended one is taken as being at the
suspended phase: no event is taken and nothing is ordered again. -/
def Work.resumeMove (x : Ctx) (t : Nat) (p : MovePhase) (w : Work) : Work :=
  let w := (w.onMove t fun k => { k with state := .phase p }).noteMoveTag x .resumed t
  match w.fl.move? t with
  | none => w
  | some m =>
    match m.crane.bind w.fl.crane? with
    | none => w
    | some k =>
      if k.nodeTag = some t then takeEvents x k.num t ⟨none, 0, k.nodePhase.rank, k.load⟩ 4 w
      else (w.produceLimit x k.num).craneOrder x k.num (x.moveOrder w.fl m (m.againMode p))

/-- Causes removed from a suspended move: it resumes when none is left (R127, R131). -/
def Work.unsuspend (x : Ctx) (cs : List SuspendCause) (t : Nat) (w : Work) : Work :=
  match w.fl.move? t with
  | none => w
  | some m =>
    match m.state with
    | .suspended p s =>
      if cs.any s.has then
        let left := cs.foldl (fun s c => s.set c false) s
        if left.isEmpty then w.resumeMove x t p
        else (w.onMove t fun k => { k with state := .suspended p left }).noteMoveTag x .suspended t
      else w
    | _ => w

/-- Causes removed from every suspended move, in submission order. -/
def Work.unsuspendAll (x : Ctx) (cs : List SuspendCause) (w : Work) : Work :=
  (w.fl.moves.map Move.tag).foldl (fun w t => w.unsuspend x cs t) w

/-! ## Stop causes (R106) -/

/-- FROZEN or BREACH leaves a crane's stop causes; RESUME is produced for it when they become empty (R106). -/
def Work.clearStop (x : Ctx) (breach : Bool) (c : Nat) (w : Work) : Work :=
  match w.fl.crane? c with
  | none => w
  | some k =>
    let f : Crane → Crane := fun k => if breach then { k with stopBreach := false } else { k with stopFrozen := false }
    let w := w.onCrane c f
    if (k.stopFrozen || k.stopBreach) && !((f k).stopFrozen || (f k).stopBreach) then w.craneOrder x c .resume else w

/-- A stop cause leaves every crane. -/
def Work.clearStops (x : Ctx) (breach : Bool) (w : Work) : Work :=
  (w.fl.cranes.map Crane.num).foldl (fun w c => w.clearStop x breach c) w

/-! ## Health (R128, R129, R130) -/

/-- The bound move of a crane meets the crane's loss or fault (R128, R129): unbound while BOUND, suspended in a phase; a
suspended yield lets the move that waits on it be unbound (R119). -/
def Work.craneOut (x : Ctx) (c : Nat) (cause : SuspendCause) (w : Work) : Work :=
  match ((w.fl.crane? c).bind Crane.bound).bind w.fl.move? with
  | none => w
  | some m =>
    if m.state = .bound then w.unbind x m.tag
    else
      let w := w.suspend x m.tag cause
      match m.waitingFor with
      | some t =>
        if (w.fl.move? t).any fun k => k.state == .bound && k.causedYield == some m.tag then w.unbind x t else w
      | none => w

/-- A crane's health set, its CRANE notice at a change (R132). -/
def Work.setHealth (x : Ctx) (c : Nat) (h : CraneHealth) (w : Work) : Work :=
  match w.fl.crane? c with
  | none => w
  | some k =>
    if k.health = h then w else (w.onCrane c fun k => { k with health := h }).noteCrane x c .health

/-- A crane's node is LOST or answers with the wrong kind (R128). -/
def Work.craneLost (x : Ctx) (c : Nat) (w : Work) : Work :=
  match w.fl.crane? c with
  | none => w
  | some k =>
    let w := w.onCrane c fun k => { k with up := false, fresh := true }
    match k.health with
    | .normal =>
      let w := w.onCrane c fun k => { k with health := .degraded, good := 0 }
      (if k.grant.isSome then w.craneOut x c .degraded else w).noteCrane x c .health
    | .degraded => w.onCrane c fun k => { k with good := 0 }
    | _ => w

/-- A crane's fault recorded with its cleared mark NO, and the crane FAULTED (R129). -/
def Work.recordFault (x : Ctx) (c code : Nat) (w : Work) : Work :=
  match w.fl.crane? c with
  | none => w
  | some k =>
    let w := w.onCrane c fun k => { k with fault := some code, cleared := false }
    if k.health = .faulted then (if k.cleared then w.noteCrane x c .faultCleared else w)
    else
      let w := w.onCrane c fun k => { k with health := .faulted, good := 0 }
      (if k.grant.isSome then w.craneOut x c .faulted else w).noteCrane x c .health

/-- A crane's fault is cleared at the node: the cleared mark YES, with a CRANE notice (R129). -/
def Work.faultCleared (x : Ctx) (c : Nat) (w : Work) : Work :=
  if (w.fl.crane? c).any fun k => k.fault.isSome && !k.cleared then
    (w.onCrane c fun k => { k with cleared := true }).noteCrane x c .faultCleared
  else w

/-- The fault code of a status block (R129): none clears a recorded fault, a code other than the recorded one is
recorded. -/
def Work.statusFault (x : Ctx) (c : Nat) (code : Option Nat) (w : Work) : Work :=
  match code with
  | none => w.faultCleared x c
  | some f => if (w.fl.crane? c).any fun k => k.fault == some f then w else w.recordFault x c f

/-- A DEGRADED or FAULTED crane becomes NORMAL: its suspended move loses both causes, and a CRANE notice and a scan follow
(R128, R130). -/
def Work.craneRestored (x : Ctx) (c : Nat) (w : Work) : Work :=
  let bound := (w.fl.crane? c).bind Crane.bound
  let w := w.onCrane c fun k => { k with health := .normal }
  let w :=
    match bound with
    | some t => w.unsuspend x [.degraded, .faulted] t
    | none => w
  (w.noteCrane x c .health).wantScan

/-! ## Positions (R104, R120, R121, R128) -/

/-- A reported position is plausible (R104). -/
def Ctx.plausible (x : Ctx) (k : Crane) (p : Nat) : Bool :=
  decide (p ≤ x.cfg.runwayLength) &&
    (k.fresh || k.position.all fun q => decide ((p - q) + (q - p) ≤ (x.cfg.limits.map Limits.jump).getD 0))

/-- A crane's span lies within its grant; true without a grant. -/
def Ctx.within (x : Ctx) (k : Crane) : Bool :=
  k.grant.all fun g => k.position.all fun p => g.holds (spanOf x.cfg.runwayLength (x.halfSpan k.num) p)

/-- A breach (R121): STOP to both cranes, every move in a phase suspended, the runway stopped, a CRANE notice. With the
runway stopped already it adds nothing but the good count of 0. -/
def Work.breach (x : Ctx) (c : Nat) (w : Work) : Work :=
  let w := w.onCrane c fun k => { k with good := 0 }
  if w.fl.runwayStopped then w
  else
    let w := (w.fl.cranes.map Crane.num).foldl (fun w c =>
      (w.askStop (x.craneAddress c)).onCrane c fun k => { k with stopBreach := true }) w
    let w := w.suspendAll x .breach
    ({ w with fl := { w.fl with runwayStopped := true } } : Work).noteCrane x c .breach

/-- The grant of a NORMAL crane trimmed to the widened hull of its remaining points (R120). -/
def Work.trim (x : Ctx) (c : Nat) (w : Work) : Work :=
  match w.fl.crane? c with
  | none => w
  | some k =>
    match k.grant, k.position, k.health with
    | some g, some p, .normal =>
      if w.fl.runwayStopped then w
      else
        let points := ((k.bound.bind w.fl.move?).map (x.remaining w.fl)).getD []
        let g' := (extentOf x.cfg.runwayLength (x.halfSpan c) p points).meet g
        if g' = g then w else w.setGrant x c g'
    | _, _, _ => w

/-- A plausible position that lies within the grant of a DEGRADED crane raises its good count, and restores it at K
(R128). DESIGN CHOICE (notes/assumptions 57): the count stays at 31, the top of its range (R103), where K does not restore
the crane. -/
def Work.countGood (x : Ctx) (c : Nat) (w : Work) : Work :=
  match w.fl.crane? c with
  | none => w
  | some k =>
    if k.health = .degraded ∧ k.grant.isSome then
      let good := min 31 (k.good + 1)
      let w := w.onCrane c fun k => { k with good := good }
      let limit := (x.cfg.limits.map Limits.restore).getD 0
      if 0 < limit ∧ limit ≤ good then w.craneRestored x c else w
    else w

/-- The position of a good crane report (R104, R120, R121, R128, R180). `faulty` says that the report carries a fault
code. -/
def Work.cranePosition (x : Ctx) (c p : Nat) (faulty : Bool) (w : Work) : Work :=
  match w.fl.crane? c with
  | none => w
  | some k =>
    if x.plausible k p then
      let w := w.onCrane c fun k => { k with position := some p, fresh := false }
      let k' : Crane := { k with position := some p }
      let w :=
        if !faulty && (k.health == .offline || (k.health == .degraded && k.grant.isNone)) then
          (w.setHealth x c .normal).wantScan
        else w
      if x.within k' then (w.trim x c).countGood x c else w.breach x c
    else w.onCrane c fun k => { k with good := 0 }

/-- What a crane's report carries beside its status block. -/
inductive CraneReportEvent where
  | moved (e : CraneEvent) (tag reading : Nat)
  | fault (code : Nat)
  | faultCleared
deriving DecidableEq, Repr

/-- The status block of a crane's report (R178). -/
structure CraneStatus where
  position : Nat
  phase    : NodePhase
  tag      : Option Nat
  load     : Nat
  stopped  : Bool
  fault    : Option Nat

/-- What a report shows of the move with a tag (R105). -/
def CraneStatus.shown (s : CraneStatus) (t : Nat) (e : Option CraneReportEvent) : Shown :=
  let rank := if s.tag = some t then s.phase.rank else 0
  match e with
  | some (.moved e tag reading) => if tag = t then ⟨some e, reading, rank, s.load⟩ else ⟨none, 0, rank, s.load⟩
  | _ => ⟨none, 0, rank, s.load⟩

/-- The report carries a fault code (R104, R129). DEDUCED (notes/assumptions 80): in its status block or in a NODE_FAULT
event. -/
def CraneStatus.faulty (s : CraneStatus) (e : Option CraneReportEvent) : Bool :=
  s.fault.isSome ||
    match e with
    | some (.fault _) => true
    | _ => false

/-- The events that a report shows for the move bound to its crane (R105). -/
def Work.takeShown (x : Ctx) (c : Nat) (s : CraneStatus) (e : Option CraneReportEvent) (w : Work) : Work :=
  match (w.fl.crane? c).bind Crane.bound with
  | some t => takeEvents x c t (s.shown t e) 4 w
  | none => w

/-- The fault that a report shows (R129): the fault code of the status block, then a NODE_FAULT or FAULT_CLEARED event. -/
def Work.reportFault (x : Ctx) (c : Nat) (s : CraneStatus) (e : Option CraneReportEvent) (w : Work) : Work :=
  let w := w.statusFault x c s.fault
  match e with
  | some (.fault code) => w.recordFault x c code
  | some .faultCleared => w.faultCleared x c
  | _ => w

/-- A good crane report (R104, R105, R129, R180): the record's report fields, the position, the events of the bound move,
which a breach alone leaves untaken, and after them the fault (notes/assumptions 67). -/
def Work.craneReport (x : Ctx) (c : Nat) (s : CraneStatus) (e : Option CraneReportEvent) (w : Work) : Work :=
  let w := w.onCrane c fun k => { k with nodePhase := s.phase, nodeTag := s.tag, load := s.load, stopped := s.stopped }
  (((w.cranePosition x c s.position (s.faulty e)).takeShown x c s e).reportFault x c s e)

end Sys2Proof.Machine
end

