-- ==== Sys2Proof/Machine/Settle.lean ====
section
/-! DEFINITION. What one event leaves to be told at the same event: jobs waiting on a slot or a tag (R94), the
examination of the queues (R83, R84) and the scan (R114); and the close of an event (R157, R163). -/
namespace Sys2Proof.Machine

/-! ## Staging (R83, R84) -/

/-- The job that the examination of a station picks (R83): none while a lead job is present; the first job of the bed
plate when the bed holds one; else the head of the queue. -/
def Floor.picked (fl : Floor) (st : Station) : Option Job :=
  if (fl.leadJob st.num).isSome then none
  else
    match st.bed with
    | some p => if st.state = .loaded then (fl.queue st.num).find? fun j => j.plate == p else none
    | none => (fl.queue st.num).head?

/-- A job moved to the head of its station's queue; the jobs it passes keep their order behind it (R83). -/
def Floor.toHead (fl : Floor) (j : Job) : Floor := { fl with jobs := j :: Table.drop Job.id j.id fl.jobs }

/-- A QUEUED job committed: its plate COMMITTED and its reservation timer stopped (R5, R39). -/
def Work.commit (j : Job) (w : Work) : Work :=
  (w.setHold j.plate (.committed j.id)).onJob j.id fun k => { k with timer := k.timer.stop }

/-- The job's plate lies on the bed of its LOADED station: READY, and handed (R84, R86). -/
def Work.stageOnBed (x : Ctx) (j : Job) (w : Work) : Work :=
  (((w.commit j).onJob j.id fun k => { k with state := .ready }).noteJob x j.id .ready none none).handJob x j.id

/-- The job's plate lies in a bay or a rack and its station is VACANT without a claim: a staging move is created when
an internal tag is free (R84). -/
def Work.stageByMove (x : Ctx) (j : Job) (kind : MoveKind) (p : Place) (w : Work) : Work :=
  match w.createMove x (.job j.id) kind (.plate j.plate) (some p) (.station j.station) j.expedite with
  | (none, w) => w
  | (some t, w) =>
    ((w.commit j).onJob j.id fun k => { k with state := .staging, stagingTag := some t }).noteJob x j.id .staging
      none none

/-- The picked job is staged according to where its plate lies (R84). -/
def Work.stage (x : Ctx) (st : Station) (j : Job) (w : Work) : Work :=
  match w.fl.plate? j.plate with
  | none => w
  | some p =>
    match p.location with
    | .station s => if s = st.num ∧ st.state = .loaded then w.stageOnBed x j else w
    | .bay b _ => if st.state = .vacant ∧ st.claim = none then w.stageByMove x j .plateIn (.bay b) else w
    | .rack r n => if st.state = .vacant ∧ st.claim = none then w.stageByMove x j .remnantFetch (.slot r n) else w
    | .crane _ => w

/-- The examination of one station's queue (R83): the picked job to the head, and staged while the hall is in RUN. -/
def Work.examineStation (x : Ctx) (w : Work) (n : Nat) : Work :=
  match w.fl.station? n with
  | none => w
  | some st =>
    match w.fl.picked st with
    | none => w
    | some j =>
      let w := if st.bed.isSome then { w with fl := w.fl.toHead j } else w
      if x.hall = .run then w.stage x st j else w

/-- The station numbers, ascending. -/
def Floor.stationNums (fl : Floor) : List Nat := fl.stations.map Station.num

/-! ## Jobs waiting on a slot or a tag (R94, R97) -/

/-- A job at STORE waits on what is due: on a slot at a slot-freed event, and on a tag where a slot qualifies for it or its
last request found one (R94). DEDUCED (notes/assumptions 59): the event that frees a tag alone does not make a request that
finds no slot anew. -/
def Work.awaitsStore (x : Ctx) (freed : Bool) (c : CloseOut) (cond : CloseCond) (w : Work) : Bool :=
  c.storeTag.isNone && (cond == .none || cond == .stockFull && (freed ||
    ((c.remnant.bind w.fl.plate?).bind (w.fl.chooseSlot x.cfg)).isSome))

/-- A job in close-out asks again for what it waits on: its store, or its skeleton move (R94, R97). A condition of
LIFT_FAILED or OVERWEIGHT waits for the host. `freed` says that a slot-freed event is among what is due. -/
def Work.serveJob (x : Ctx) (freed : Bool) (j : Job) (w : Work) : Work :=
  let cond := ((w.fl.station? j.station).map Station.cond).getD .none
  match j.closeOut with
  | none => w
  | some c =>
    match c.step with
    | .store => if w.awaitsStore x freed c cond then w.storeRequest x j.id else w
    | .skeleton => if c.skelTag.isNone && cond == .none then w.skeletonRequest x j.id else w
    | .waitParts => w

/-- One station's waiting job served: close-out, or staging (R94). -/
def Work.serveStation (x : Ctx) (freed : Bool) (w : Work) (n : Nat) : Work :=
  match w.fl.leadJob n with
  | some j => w.serveJob x freed j
  | none => w.examineStation x n

/-! ## The scan (R114) -/

/-- The distance of a crane from a move's pickup. -/
def Ctx.distance (x : Ctx) (fl : Floor) (m : Move) (k : Crane) : Nat :=
  let p := k.position.getD 0
  let a := (x.pickupAt fl m).getD p
  (p - a) + (a - p)

/-- The free cranes for which a move is eligible, the one to bind first at the head: nearer the pickup, and crane 1 at
equal distance (R114). -/
def Ctx.candidates (x : Ctx) (fl : Floor) (m : Move) : List Nat :=
  (sortBy (fun a b : Crane => decide (x.distance fl m a ≤ x.distance fl m b))
    (fl.cranes.filter (x.eligible fl m))).map Crane.num

/-- A move of the scan offered to its candidates in turn: a crane that loses it at its grant is passed over (R114). -/
def offerMove (x : Ctx) (t : Nat) : List Nat → Work → Work
  | [], w => w
  | c :: cs, w =>
    match w.fl.move? t, w.fl.crane? c with
    | some m, some k => if x.eligible w.fl m k then offerMove x t cs ((w.bind x t c).attemptGrant x t) else w
    | _, _ => w

/-- One move of a scan (R114). -/
def Work.scanMove (x : Ctx) (w : Work) (t : Nat) : Work :=
  match w.fl.move? t with
  | some m => if m.state = .waiting then offerMove x t (x.candidates w.fl m) w else w
  | none => w

/-- The WAITING moves in the order of a scan: expedite YES first, each in submission order (R114). -/
def Floor.scanOrder (fl : Floor) : List Nat :=
  let ws := fl.moves.filter fun m => m.state == .waiting
  (ws.filter Move.expedite ++ ws.filter fun m => !m.expedite).map Move.tag

/-- A scan of the queue (R114). What the scan itself binds and unbinds calls for no further scan; a move that ended in it
does. -/
def Work.scanQueue (x : Ctx) (w : Work) : Work :=
  let tags := w.fl.moves.map Move.tag
  let w := w.fl.scanOrder.foldl (Work.scanMove x) w
  { w with scan := tags.any fun t => (w.fl.move? t).isNone }

/-! ## Settling an event -/

/-- One round of what is due: the jobs waiting on a slot or tag, the examinations, the scan. -/
def Work.settleOnce (x : Ctx) (w : Work) : Work :=
  let w :=
    if w.serve then w.fl.stationNums.foldl (Work.serveStation x w.freed) { w with serve := false, freed := false } else w
  let w := if w.examine then w.fl.stationNums.foldl (Work.examineStation x) { w with examine := false } else w
  if w.scan then w.scanQueue x else w

/-- What is due at an event carried out, at most `fuel` rounds. -/
def settle (x : Ctx) : Nat → Work → Work
  | 0, w => w
  | fuel + 1, w => if w.serve || w.examine || w.scan then settle x fuel (w.settleOnce x) else w

/-! ## The close of an event (R157, R163) -/

/-- A HALL notice of a change from one hall state to another (R151). DESIGN CHOICE (notes/assumptions 72): for every cause it
carries the capture time of the last STOP (R149), 0 where there is none. -/
def Hall.hallNotice (h : Hall) (cause : HallCause) (old : HallState) : Notice :=
  ⟨h.sup.clock, .hall cause old h.sup.state h.sup.stopInput h.sup.capture⟩

/-- At the close of an event: HOLDING passes to HELD once nothing is in flight (R157), and ALERT is evaluated (R163). -/
def Hall.close (h : Hall) (out : List Notice) : Hall × List Notice :=
  let rest := h.sup.state == .holding && h.fl.atRest
  let h := if rest then { h with sup := { h.sup with state := .held } } else h
  let out := if rest then out ++ [h.hallNotice .workFinished .holding] else out
  ({ h with sup := { h.sup with alert := alertOf h.sup.state h.fl.line.nodes } }, out)

/-- What the floor's rules read of the hall. -/
def Hall.ctx (h : Hall) : Ctx := ⟨h.sup.state, h.sup.clock, h.cfg, h.templates⟩

/-- An event on the floor: its own effect, what is due at the same event, what the hall line does then, and its close.
`before` are notices raised ahead of the floor's. -/
def Hall.onFloorThen (h : Hall) (before : List Notice) (f line : Ctx → Work → Work) : Hall × List Notice :=
  let w := line h.ctx (settle h.ctx 64 (f h.ctx (Work.begin h.fl)))
  { h with fl := w.fl }.close (before ++ w.out)

/-- An event on the floor that does not carry the hall line on. -/
def Hall.onFloor (h : Hall) (before : List Notice) (f : Ctx → Work → Work) : Hall × List Notice :=
  h.onFloorThen before f fun _ w => w

end Sys2Proof.Machine
end

