-- ==== Sys2Proof/Machine/LineMaster.lean ====
section
/-! DEFINITION. The Hall Line Master: rounds and visits (R138, R141), the freeze broadcast (R147), misses and health
(R145, R146), the decoding of reports (R135, R178), and what a report is to a station (R50, R58-R60), a crane or a
rack. -/
namespace Sys2Proof.Machine

/-! ## Rounds and visits (R138, R141, R147) -/

/-- The positions due in a round, in table order (R138). -/
def dueIn (polls : List PollEntry) (round : Nat) : List Nat :=
  (polls.filter fun e => round % e.repetition == e.base).map PollEntry.position

/-- The poll entry at a position. -/
def Tables.poll? (cfg : Tables) (p : Nat) : Option PollEntry := Table.get PollEntry.position p cfg.polls

/-- A visit to a node begins: its frame is built from the record as it stands (R141). -/
def Work.beginVisit (x : Ctx) (n : Node) (due : List Nat) (w : Work) : Work :=
  let f := n.visitFrame x.hall
  (w.onNode n.address fun _ => f.2).onLine fun l =>
    { l with due := due, visit := some ⟨n.address, n.stop, f.1, false⟩ }

/-- The next visit due in the round begins; with none left the round gap begins (R138). -/
def nextVisit (x : Ctx) : List Nat → Work → Work
  | [], w => w.onLine fun l => { l with due := [], gap := true }
  | p :: ps, w =>
    match (x.cfg.poll? p).bind fun e => w.fl.node? e.address with
    | some n => w.beginVisit x n ps
    | none => nextVisit x ps w

/-- The line is free: a pending broadcast goes first, then the next visit due (R138, R147). -/
def Work.lineFree (x : Ctx) (w : Work) : Work :=
  if w.fl.line.broadcastPending then w.onLine fun l => { l with broadcast := .sending }
  else nextVisit x w.fl.line.due w

/-- The visit in progress ends (R135). -/
def Work.endVisit (x : Ctx) (w : Work) : Work := (w.onLine fun l => { l with visit := none }).lineFree x

/-- A round begins with the entries due in it; while the broadcast occupies the line its first visit waits (R138,
R147). -/
def Work.beginRound (x : Ctx) (round : Nat) (w : Work) : Work :=
  let due := dueIn x.cfg.polls round
  let w := w.onLine fun l => { l with round := round, due := due, gap := false }
  if w.fl.line.broadcast = .none then nextVisit x due w else w

/-- The hall has entered FROZEN from outside SETUP: a STOP in every queue, and the broadcast pending, which goes at once
when no visit and no other broadcast occupies the line (R147). DESIGN CHOICE (notes/assumptions 64): a freeze told while the
window after an earlier STOP_ALL still runs has its own STOP_ALL sent when that window has ended. -/
def Work.broadcastStop (w : Work) : Work :=
  w.onLine fun l =>
    { l with nodes := l.nodes.map Node.placeStop, broadcastPending := true,
             broadcast := if l.visit.isNone && l.broadcast == .none then .sending else l.broadcast }

/-- The node record of a poll entry, as COMMIT_SETUP creates it (R139). -/
def Node.initial (e : PollEntry) : Node := ⟨e.address, e.kind, .lost, 0, 0, none, false, [], 0, []⟩

/-- The node records of a poll table, in ascending address. -/
def nodesOf (polls : List PollEntry) : List Node :=
  polls.foldl (fun l e => Table.put Node.address (Node.initial e) l) []

/-! ## Owners (R145, R146) -/

/-- What stands at a hall line address. -/
inductive Owner where
  | station (n : Nat)
  | crane (c : Nat)
  | rack (r : Nat)
deriving DecidableEq, Repr

/-- The owner of the node at an address; COMMIT_SETUP has one device for every poll entry (R154). -/
def Tables.owner (cfg : Tables) (a : Nat) : Option Owner :=
  ((cfg.stations.find? fun c => c.address == a).map fun c => .station c.num).or
    (((cfg.cranes.find? fun c => c.address == a).map fun c => .crane c.num).or
      ((cfg.racks.find? fun c => c.address == a).map fun c => .rack c.num))

/-- The node of an owner is lost, or answers with the wrong kind (R57, R128, R23). -/
def Work.tellLost (x : Ctx) (a : Nat) (w : Work) : Work :=
  match x.cfg.owner a with
  | some (.station n) => (w.onStation n fun st => { st with up := false }).addReason x n .nodeLost
  | some (.crane c) => w.craneLost x c
  | some (.rack r) => w.rackLost r
  | none => w

/-- The node of an owner is UP (R146). A station takes it with the report that follows at the same event (R58). -/
def Work.tellUp (x : Ctx) (a : Nat) (w : Work) : Work :=
  match x.cfg.owner a with
  | some (.crane c) => w.onCrane c fun k => { k with up := true }
  | some (.rack r) => w.rackUp r
  | _ => w

/-- The owner of a node is told that its queue has room, and drains its outbox (R47, R106, R140). -/
def Work.tellRoom (x : Ctx) (a : Nat) (w : Work) : Work :=
  match x.cfg.owner a with
  | some (.station n) => w.drain x n
  | some (.crane c) => drainCrane x c 5 w
  | _ => w

/-- A node's health set, with its NODE notice, when it changes (R145, R146, R148). -/
def Work.setNodeHealth (x : Ctx) (a : Nat) (h : NodeHealth) (cause : NodeCause) (reported : Option NodeKind)
    (w : Work) : Work :=
  match w.fl.node? a with
  | none => w
  | some n =>
    if n.health = h then w
    else
      let w := (w.onNode a fun n => { n with health := h }).note x (.node cause a n.kind h reported n.orders.length)
      if h = .up then w.tellUp x a else w.tellLost x a

/-- A miss (R145): the miss count rises up to the limit, and an UP node at the limit is LOST. -/
def Work.miss (x : Ctx) (a : Nat) (w : Work) : Work :=
  match w.fl.node? a with
  | none => w
  | some n =>
    let count := min x.cfg.line.missLimit (n.miss + 1)
    let w := w.onNode a fun n => { n with miss := count }
    if n.health = .up ∧ x.cfg.line.missLimit ≤ count then w.setNodeHealth x a .lost .missLimit none else w

/-! ## Reports to a station (R50, R58, R59, R60) -/

/-- The status block of a station's report (R178). -/
structure StationStatus where
  sequence : Nat
  index    : Nat
  kind     : Option Phase
  failed   : Bool
  reason   : FailReason
  arc      : Nat
  pierces  : Nat
  cleared  : Bool
  fault    : Option Nat

/-- The failure that a last finished record shows. -/
def StationStatus.failure (s : StationStatus) : Option FailReason := if s.failed then some s.reason else none

/-- The last finished record is that of an entry (R50). -/
def StationStatus.isOf (s : StationStatus) (e : InProgress) : Bool := s.index == e.index && s.kind == some e.kind

/-- The events of a station's report that the sequencer acts on; an ENTRY_DONE or ENTRY_FAILED carries the figures of
the last finished record, from which results are taken (section 3.4). -/
inductive StationEvent where
  | started (index : Nat) (kind : Option Phase)
  | partsCleared
  | fault (code : Nat)
  | faultCleared
deriving DecidableEq, Repr

/-- A new finish taken (R50): the result of the entry in progress, or an unmatched finish. An index of 0 says that the
node has finished nothing (section 3.4): the sequence is recorded and nothing else follows. -/
def Work.newFinish (x : Ctx) (n : Nat) (s : StationStatus) (w : Work) : Work :=
  let w := w.onStation n fun st => { st with sequence := some s.sequence }
  match (w.fl.station? n).bind Station.entry with
  | some e =>
    if s.isOf e then w.entryResult x n s.failure s.arc s.pierces
    else if s.index = 0 then w else w.unmatched x n s.index s.kind s.failure s.arc s.pierces
  | none => if s.index = 0 then w else w.unmatched x n s.index s.kind s.failure s.arc s.pierces

/-- An entry in progress that the returning node shows no result of (R58): FAILED(LINK_LOST), and its order withdrawn, or
a STOP asked for when a report has shown it taken. -/
def Work.linkLost (x : Ctx) (n : Nat) (e : InProgress) (w : Work) : Work :=
  let w := w.entryResult x n (some .linkLost) 0 0
  let a := x.stationAddress n
  match (w.fl.node? a).bind (Node.withdraw e.number) with
  | some node => w.onNode a fun _ => node
  | none => w.askStop a

/-- The first good report after the node is UP again (R58). A finish in it that is not the result of the entry in
progress is taken as unmatched at once (notes/assumptions 23). -/
def Work.nodeReturn (x : Ctx) (n : Nat) (s : StationStatus) (w : Work) : Work :=
  match w.fl.station? n with
  | none => w
  | some st =>
    let w := w.onStation n fun st => { st with up := true }
    let fresh := st.sequence.any fun q => q != s.sequence
    let w :=
      match st.entry with
      | some e =>
        if fresh && s.isOf e then w.newFinish x n s
        else
          let w := w.linkLost x n e
          if fresh then w.newFinish x n s else w
      | none => if fresh then w.newFinish x n s else w
    let w := w.onStation n fun st => { st with sequence := some s.sequence }
    w.removeReason x n .nodeLost

/-- An ENTRY_STARTED of the entry in progress (R50). -/
def Work.entryStarted (x : Ctx) (n index : Nat) (kind : Option Phase) (w : Work) : Work :=
  match (w.fl.station? n).bind Station.entry with
  | some e =>
    if index = e.index ∧ kind = some e.kind then
      let e' := { e with started := true }
      (w.onStation n fun st => { st with entry := some e' }).noteEntry x n .started e' none none 0 0
    else w
  | none => w

/-- A station's fault set, replaced or cleared, with its STATION notice when it changes (R59). -/
def Work.stationFault (x : Ctx) (n : Nat) (fault : Option Nat) (w : Work) : Work :=
  match w.fl.station? n with
  | none => w
  | some st =>
    if st.fault = fault then w
    else
      (w.onStation n fun st => { st with fault := fault }).noteStation x n
        (if fault.isSome then .fault else .faultCleared) none

/-- PARTS_CLEARED handed on while the station is CLEARING (R60). -/
def Work.partsSeen (x : Ctx) (n : Nat) (w : Work) : Work :=
  match w.fl.station? n with
  | some st =>
    if st.state = .clearing then
      match st.job with
      | some j => w.partsCleared x j
      | none => w
    else w
  | none => w

/-- A good station report (R146). DESIGN CHOICE (notes/assumptions 75): its parts are taken in the order of its finish or the
node's return, an ENTRY_STARTED event, the status block's fault code, a fault event, and the parts-cleared flag or event. -/
def Work.stationReport (x : Ctx) (n : Nat) (s : StationStatus) (e : Option StationEvent) (w : Work) : Work :=
  match w.fl.station? n with
  | none => w
  | some st =>
    let w :=
      if st.up then (if st.sequence = some s.sequence then w else w.newFinish x n s) else w.nodeReturn x n s
    let w :=
      match e with
      | some (.started i k) => w.entryStarted x n i k
      | _ => w
    let w := w.stationFault x n s.fault
    let w :=
      match e with
      | some (.fault code) => w.stationFault x n (some code)
      | some .faultCleared => w.stationFault x n none
      | _ => w
    if s.cleared || e == some .partsCleared then w.partsSeen x n else w

/-! ## The decoding of reports (R135, R178) -/

/-- A received report's fields before its status block. -/
structure Report where
  address : Nat
  kind    : NodeKind
  taken   : Nat
  rest    : List Byte

/-- The bytes of a status block, by node kind (R178). -/
def NodeKind.statusBytes : NodeKind → Nat
  | .station | .crane => 10
  | .rack => 3

/-- The fields of a report whose CRC has been found correct. -/
def reportOf (content : List Byte) : Option Report :=
  match content with
  | _ :: a :: k :: t :: rest =>
    (nodeKindOf k.toNat).bind fun kind =>
      if kind.statusBytes ≤ rest.length then some ⟨a.toNat, kind, t.toNat, rest⟩ else none
  | _ => none

/-- A report judged (R135): its characters up to the last CRC character are all data characters with good stop bits,
its CRC is correct, its length is at least that of its kind and its address echo is that visited. None is a miss. -/
def judge (visited : Nat) (chars : List LineChar) : Option Report :=
  match chars with
  | [] => none
  | c :: _ =>
    let n := c.data.toNat
    let used := chars.take (n + 2)
    let bytes := used.map LineChar.data
    if used.length = n + 2 ∧ (used.all fun c => !c.address && c.stopOk) = true
        ∧ bytes.drop n = encCrc (crc16 (bytes.take n)) then
      (reportOf (bytes.take n)).filter fun r => r.address == visited
    else none

/-- Two bytes, high byte first. -/
def pair (h l : Byte) : Nat := h.toNat * 256 + l.toNat

/-- An entry kind of a report: MARK 0, BURN 1 (R178). -/
def entryKindOf : Nat → Option Phase
  | 0 => some .mark
  | 1 => some .burn
  | _ => none

/-- A station's status block (R178): outcome DONE is 0, FAILED 1. An outcome or a flag of another value is taken by a free
value (notes/assumptions 61). -/
def stationStatusOf : List Byte → Option StationStatus
  | [q, i, k, o, r, a1, a0, p, c, f] =>
    some ⟨q.toNat, i.toNat, entryKindOf k.toNat, flagOf o.toNat, failReasonOf r.toNat, pair a1 a0, p.toNat,
      flagOf c.toNat, optOf f.toNat⟩
  | _ => none

/-- A station's event (R178). One whose bytes are not exactly its parameters is disregarded, and so is an ENTRY_DONE or
ENTRY_FAILED, whose figures the status block carries. -/
def stationEventOf (l : List Byte) : Option StationEvent :=
  match l.map BitVec.toNat with
  | [0x01, i, k] => some (.started i (entryKindOf k))
  | [0x04] => some .partsCleared
  | [0x0E, c] => if c = 0 then none else some (.fault c)
  | [0x0F] => some .faultCleared
  | _ => none

/-- A crane's status block (R178). A stopped flag other than 0 and 1 is taken by a free value (notes/assumptions 61). -/
def craneStatusOf : List Byte → Option CraneStatus
  | [p3, p2, p1, p0, ph, t, l1, l0, s, f] =>
    some ⟨pair p3 p2 * 65536 + pair p1 p0, nodePhaseOf ph.toNat, if t = 0xFF#8 then none else some t.toNat, pair l1 l0,
      flagOf s.toNat, optOf f.toNat⟩
  | _ => none

/-- A crane's event (R178). -/
def craneEventOf (l : List Byte) : Option CraneReportEvent :=
  match l.map BitVec.toNat with
  | [0x11, t] => some (.moved .atPickup t 0)
  | [0x12, t, h, r] => some (.moved .lifted t (h * 256 + r))
  | [0x13, t] => some (.moved .atDrop t 0)
  | [0x14, t] => some (.moved .setDown t 0)
  | [0x0E, c] => if c = 0 then none else some (.fault c)
  | [0x0F] => some .faultCleared
  | _ => none

/-- A rack's flags (R178): slot k's flag is bit k - 1 of the flag word, as many as the flag count, at most 16. -/
def rackFlagsOf : List Byte → List Bool
  | [n, h, l] => (List.range (min 16 n.toNat)).map fun i => (pair h l).testBit i
  | _ => []

/-- The status block and event of a good report handed to its owner (R146, R178). -/
def Work.handStatus (x : Ctx) (a : Nat) (r : Report) (w : Work) : Work :=
  let status := r.rest.take r.kind.statusBytes
  let event := r.rest.drop r.kind.statusBytes
  match x.cfg.owner a with
  | some (.station n) =>
    match stationStatusOf status with
    | some s => w.stationReport x n s (stationEventOf event)
    | none => w
  | some (.crane c) =>
    match craneStatusOf status with
    | some s => w.craneReport x c s (craneEventOf event)
    | none => w
  | some (.rack k) => w.rackReport x k (rackFlagsOf status)
  | none => w

/-- A good report at a visit (R146): of the right kind, the miss count, the health, the queue steps and the hand-over in
this order; of another kind, WRONG_KIND. -/
def Work.goodReport (x : Ctx) (v : Visit) (r : Report) (w : Work) : Work :=
  match w.fl.node? v.address with
  | none => w
  | some n =>
    let w := w.onNode v.address fun n => { n with miss := 0 }
    if r.kind = n.kind then
      let w := w.setNodeHealth x v.address .up .report none
      let w := (w.onNode v.address (Node.acknowledge v.stop r.taken)).tellRoom x v.address
      w.handStatus x v.address r
    else
      (w.onNode v.address fun n => { n with reportedKind := some r.kind }).setNodeHealth x v.address .wrongKind
        .wrongKind (some r.kind)

/-- A report completed at the visit in progress, judged (R135, R145, R146). -/
def Work.takeReport (x : Ctx) (v : Visit) (chars : List LineChar) (w : Work) : Work :=
  match judge v.address chars with
  | some r => w.goodReport x v r
  | none => w.miss x v.address

end Sys2Proof.Machine
end

