-- ==== Sys2Proof/Machine/HallOps.lean ====
section
/-! DEFINITION. The Hall Supervisor's transitions: the commit checks (R154), the commit (R155), start (R156), hold and
resume (R157, R158), freeze and its clearing (R159, R160), and the entry to SETUP (R161). -/
namespace Sys2Proof.Machine

/-- The answer to a request: the reply, the hall after it, and the notices it raised. -/
structure Answer where
  reply : Reply
  hall  : Hall
  out   : List Notice

/-- A refusal changes nothing (R169). -/
def Hall.refuse (h : Hall) (code : RefusalCode) (d : Detail) : Answer := ⟨.refused code d, h, []⟩

/-- An acceptance whose effect raises no event. -/
def Hall.accept (h : Hall) (body : List Byte) : Answer := ⟨.accepted body, h, []⟩

/-- An acceptance with an event on the floor. -/
def Hall.acceptWith (h : Hall) (body : List Byte) (f : Ctx → Work → Work) : Answer :=
  let r := h.onFloor [] f
  ⟨.accepted body, r.1, r.2⟩

/-! ## The commit checks (R154) -/

/-- A configured device: its address, the kind its poll entry must have, and the detail item that names it. -/
structure Device where
  address : Nat
  kind    : NodeKind
  detail  : Detail

/-- The devices in the order stations, cranes, racks (R154). -/
def Tables.devices (cfg : Tables) : List Device :=
  cfg.stations.map (fun c => ⟨c.address, .station, .station c.num⟩)
    ++ cfg.cranes.map (fun c => ⟨c.address, .crane, .crane c.num⟩)
    ++ cfg.racks.map (fun c => ⟨c.address, .rack, .rackSlot c.num 0⟩)

/-- The address that ADDRESS_CLASH names (R154): the first of a list of addresses that stands in it before. DESIGN CHOICE
(notes/assumptions 65): of two addresses that clash it is the one whose second device or entry comes first. -/
def firstRepeat : List Nat → List Nat → Option Nat
  | _, [] => none
  | seen, a :: l => if seen.contains a then some a else firstRepeat (a :: seen) l

/-- The poll entry at an address. -/
def Tables.pollAt (cfg : Tables) (a : Nat) : Option PollEntry := cfg.polls.find? fun e => e.address == a

/-- The detail item of a place (kind 18). -/
def Place.detail (p : Place) : Detail := .place p.numbers.1 p.numbers.2.1 p.numbers.2.2

/-- The places that a move may use, with their positions, in the order stations, bays, racks, scrap point. -/
def Tables.places (cfg : Tables) : List (Place × Nat) :=
  cfg.stations.map (fun c => (.station c.num, c.position))
    ++ ((cfg.runway.map Runway.bays).getD []).zipIdx.map (fun b => (.bay (b.2 + 1), b.1))
    ++ cfg.racks.map (fun c => (.slot c.num 0, c.position))
    ++ (cfg.runway.map fun r => (Place.scrap, r.scrap)).toList

/-- A refusal of the commit checks. -/
abbrev CommitFault := RefusalCode × Detail

/-- Checks 1 of R154. -/
def Tables.checkDevices (cfg : Tables) : Option CommitFault :=
  if cfg.stations.isEmpty then some (.noStation, .none)
  else if cfg.cranes.isEmpty then some (.noCrane, .none)
  else none

/-- Checks 2 of R154. -/
def Tables.checkAddresses (cfg : Tables) : Option CommitFault :=
  ((firstRepeat [] (cfg.devices.map Device.address)).or (firstRepeat [] (cfg.polls.map PollEntry.address))).map
      (fun a => (.addressClash, .address a))
    |>.or ((cfg.devices.find? fun d => (cfg.pollAt d.address).isNone).map fun d => (.noPollEntry, d.detail))
    |>.or ((cfg.devices.find? fun d => (cfg.pollAt d.address).any fun e => e.kind != d.kind).map fun d =>
        (.kindMismatch, d.detail))
    |>.or ((cfg.polls.find? fun e => !(cfg.devices.any fun d => d.address == e.address)).map fun e =>
        (.pollEntryUnused, .pollPosition e.position))

/-- Check 3 of R154. -/
def Tables.checkRepetition (cfg : Tables) : Option CommitFault :=
  (cfg.polls.find? fun e => e.kind == .crane && e.repetition != 1).map fun e =>
    (.craneRepetition, .pollPosition e.position)

/-- Checks 4 of R154. -/
def Tables.checkCranes (cfg : Tables) : Option CommitFault :=
  match cfg.runway with
  | none => some (.runwayUnset, .none)
  | some r =>
    ((cfg.cranes.find? fun c => decide (r.length < c.limitMax)).map fun c => (.craneLimits, .crane c.num))
      |>.or (match cfg.crane? 1, cfg.crane? 2 with
        | some a, some b => if a.limitMin < b.limitMin then none else some (.craneOrder, .number b.limitMin)
        | _, _ => none)
      |>.or ((cfg.cranes.find? fun c => decide (c.swl ≤ c.tare)).map fun c => (.tareNotBelowSwl, .crane c.num))

/-- Check 5 of R154. -/
def Tables.checkPlaces (cfg : Tables) : Option CommitFault :=
  (cfg.places.find? fun p =>
    decide (cfg.runwayLength < p.2) || !(cfg.cranes.any fun c => c.reaches p.2)).map fun p =>
      (.positionUnreachable, p.1.detail)

/-- The first commit check that fails (R154). -/
def Tables.commitFault (cfg : Tables) : Option CommitFault :=
  cfg.checkDevices.or (cfg.checkAddresses.or (cfg.checkRepetition.or (cfg.checkCranes.or (cfg.checkPlaces.or
    (if cfg.limits.isNone then some (.limitsUnset, .none) else none)))))

/-! ## Changes of the hall state -/

/-- The hall in a state other than FROZEN: frozen-from and the freeze cause are absent (R149). -/
def Hall.inState (h : Hall) (s : HallState) : Hall :=
  { h with sup := { h.sup with state := s, frozenFrom := none, cause := none } }

/-- A reason added to every station (R157, R159, R155). -/
def Work.addReasonAll (x : Ctx) (r : HoldReason) (w : Work) : Work :=
  w.fl.stationNums.foldl (fun w n => w.addReason x n r) w

/-- Reasons removed from every station, one station after the other (R158, R160). -/
def Work.removeReasonsAll (x : Ctx) (rs : List HoldReason) (w : Work) : Work :=
  w.fl.stationNums.foldl (fun w n => rs.foldl (fun w r => w.removeReason x n r) w) w

/-- Every duration timer changed (R20). -/
def Work.onTimers (f : Timer → Timer) (w : Work) : Work :=
  { w with fl := { w.fl with
      stations := w.fl.stations.map fun s => { s with park := f s.park }
      jobs := w.fl.jobs.map fun j => { j with timer := f j.timer }
      moves := w.fl.moves.map fun m => { m with wait := f m.wait } } }

/-- Every owner drains its outbox: the hall has left FROZEN (R140). -/
def Work.drainAll (x : Ctx) (w : Work) : Work :=
  let w := w.fl.stationNums.foldl (fun w n => w.drain x n) w
  (w.fl.cranes.map Crane.num).foldl (fun w c => drainCrane x c 5 w) w

/-- A passed COMMIT_SETUP (R155). -/
def Work.commitSetup (x : Ctx) (w : Work) : Work :=
  let w := w.onLine fun _ => { Line.silent with nodes := nodesOf x.cfg.polls }
  (w.addReasonAll x .nodeLost).beginRound x 0

/-- START accepted (R156, R116). -/
def Work.startHall (x : Ctx) (w : Work) : Work :=
  ((w.fl.cranes).foldl (fun w k =>
    w.setGrant x k.num (spanOf x.cfg.runwayLength (x.halfSpan k.num) (k.position.getD 0))) w).wantExamine.wantScan

/-- RESUME accepted (R158): FROZEN leaves the stop causes and the moves, HALL and FROZEN the stations; the queues are
examined and the dispatcher scans. The dispatcher's part goes first, as its MOVE notices do (R132). -/
def Work.resumeHall (x : Ctx) (w : Work) : Work :=
  let w := (w.clearStops x false).unsuspendAll x [.frozen]
  (w.removeReasonsAll x [.hall, .frozen]).wantExamine.wantScan

/-- The floor's part of a freeze (R159). `fromSetup` leaves out the crane stop causes, the STOPs and the broadcast. The
dispatcher's part goes first, as its MOVE notices do (R132). -/
def Work.freezeFloor (x : Ctx) (fromSetup : Bool) (w : Work) : Work :=
  let w := (w.onTimers Timer.pause).suspendAll x .frozen
  let w := w.addReasonAll x .frozen
  if fromSetup then w
  else
    (({ w with fl := { w.fl with cranes := w.fl.cranes.map fun k => { k with stopFrozen := true } } } : Work)).broadcastStop

/-- The hall enters FROZEN (R159): the record, the HALL notice, then every block's part. -/
def Hall.freeze (h : Hall) (cause : FreezeCause) (why : HallCause) : Hall × List Notice :=
  let old := h.sup.state
  let h := { h with sup := { h.sup with state := .frozen, frozenFrom := some old, cause := some cause } }
  h.onFloor [h.hallNotice why old] fun x w => w.freezeFloor x (old == .setup)

/-! ## The entry to SETUP (R161, R22, R44, R103, R138) -/

/-- A station record as SET_STATION creates it (R44). -/
def Station.initial (num parkCode : Nat) : Station :=
  { num, state := .vacant, bed := none, claim := none, job := none, phase := none, entry := none, hold := {},
    exhausted := none, wear := 0, park := Timer.idle parkCode, parked := false, outbox := [], up := false,
    fault := none, sequence := none, cond := .none }

/-- A station record at the entry to SETUP: its first values, but wear, parked, HOST and CONSUMABLES (R44). -/
def Station.atSetup (st : Station) : Station :=
  { Station.initial st.num st.park.code with
    wear := st.wear, parked := st.parked,
    hold := { ({} : HoldSet) with host := st.hold.host, consumables := st.hold.consumables } }

/-- A crane record as SET_CRANE creates it (R103). DESIGN CHOICE (notes/assumptions 56): the load reading is 0 and the
stopped flag NO, which R103's list of values leaves out. -/
def Crane.initial (num : Nat) : Crane :=
  { num, position := none, fresh := true, activity := .idle, health := .offline, up := false, good := 0, grant := none,
    bound := none, nodePhase := .idle, nodeTag := none, load := 0, stopped := false, fault := none, cleared := false,
    stopFrozen := false, stopBreach := false, outbox := [] }

/-- The STATION notices of one station's entry to SETUP: its change of state, each reason that leaves the set, its fault
cleared (R62). -/
def Work.noteSetup (x : Ctx) (old : Station) (w : Work) : Work :=
  let new := old.atSetup
  let w := if old.state = new.state then w else w.noteStation x old.num .stateChange none
  let w := (HoldReason.all.filter fun r => old.hold.has r && !new.hold.has r).foldl
    (fun w r => w.noteStation x old.num .reasonRemoved (some r)) w
  if old.fault.isSome then w.noteStation x old.num .faultCleared none else w

/-- The CRANE notices of an entry to SETUP: every crane whose health changes to OFFLINE (R132, R103). -/
def Work.noteOffline (x : Ctx) (old : List Crane) (w : Work) : Work :=
  old.foldl (fun w k => if k.health = .offline then w else w.noteCrane x k.num .health) w

/-- The floor's part of an entry to SETUP: stations, racks, cranes, moves and the line return to their first values
(R22, R44, R103, R138). -/
def Work.enterSetup (x : Ctx) (w : Work) : Work :=
  let old := w.fl.stations
  let cranes := w.fl.cranes
  let w : Work :=
    { w with fl := { w.fl with
        stations := old.map Station.atSetup
        racks := w.fl.racks.map fun k => { k with up := false, slots := k.slots.map fun s => Slot.initial s.num }
        cranes := w.fl.cranes.map fun k => Crane.initial k.num
        moves := []
        runwayStopped := false
        line := Line.silent } }
  (old.foldl (fun w st => w.noteSetup x st) w).noteOffline x cranes

/-- CLEAR_REGISTER on the floor (R162, R2, R6, R22, R107). -/
def Floor.clearRegister (fl : Floor) : Floor :=
  { fl with
    plates := [], jobs := [], moves := []
    bays := fl.bays.map fun b => { b with stack := [], incoming := 0, claim := none }
    racks := fl.racks.map fun k =>
      { k with slots := k.slots.map fun s =>
          { s with register := none, dispute := .none, transfer := .none, recheck := false } } }

/-! ## HALL_COMMAND (R151) -/

/-- The order of checks of HALL_COMMAND (R151): BUSY, then the hall state, then the command's own. -/
def Hall.command (h : Hall) (accepted : List HallState) (f : Hall → Answer) : Answer :=
  if h.fl.line.broadcastPending then h.refuse .busy .none
  else if accepted.contains h.sup.state then f h
  else h.refuse .notAccepted h.sup.state.detail

/-- A request accepted in some hall states only; in the others refused NOT_ACCEPTED with the hall state. -/
def Hall.whenIn (h : Hall) (accepted : List HallState) (f : Answer) : Answer :=
  if accepted.contains h.sup.state then f else h.refuse .notAccepted h.sup.state.detail

/-- READY, RUN, HOLDING and HELD (section 9.5). -/
def workingStates : List HallState := [.ready, .run, .holding, .held]

/-- The answer of an accepted command: the hall state after it (R151). -/
def commandReply (r : Hall × List Notice) (more : List Byte) : Answer :=
  ⟨.accepted (enc1 r.1.sup.state.code ++ more), r.1, r.2⟩

/-- A command that changes the hall state: the HALL notice, then the floor's part (R151). -/
def Hall.changeTo (h : Hall) (s : HallState) (value : Nat) (f : Ctx → Work → Work) : Answer :=
  let h' := h.inState s
  commandReply (h'.onFloor [h'.hallNotice (.command value) h.sup.state] f) []

end Sys2Proof.Machine
end

