-- ==== Sys2Proof/Machine/Link.lean ====
section
/-! DEFINITION. The Host Link Interface: the receiver (R167), the input queue and the service of requests (R168, R169),
the transmitter (R170) and the notice queue (R171); and how a command reaches the hall through it. -/
namespace Sys2Proof.Machine

/-! ## Notices (R171) -/

/-- A notice reaches the queue: not queued when its kind is disabled, at the tail when fewer than 32 stand there,
dropped and counted otherwise (R171). -/
def HostLink.raise (k : HostLink) (n : Notice) : HostLink :=
  if k.enabled.contains n.body.kind then
    if k.notices.length < 32 then { k with notices := k.notices ++ [n] }
    else { k with noticesLost := true, lostCount := min 65535 (k.lostCount + 1) }
  else k

/-- The notices of one event, in the order they were raised (R171). -/
def HostLink.raiseAll (k : HostLink) (out : List Notice) : HostLink := out.foldl HostLink.raise k

/-! ## The transmitter (R170) -/

/-- The frame of a SERVED request's reply. -/
def Request.frame (r : Request) (a : Reply) : List Byte := a.frame r.code r.tag

/-- The reply of the oldest SERVED request, as a frame (R170). -/
def HostLink.replyFrame (k : HostLink) : Option (List Byte) :=
  k.input.findSome? fun r => r.reply.map r.frame

/-- The transmitter, when idle, begins the next frame: the oldest OVERRUN, the oldest SERVED reply, the head of the
notice queue (R170). -/
def HostLink.pump (k : HostLink) : HostLink :=
  if k.tx.isSome then k
  else
    match k.overruns with
    | o :: rest =>
      { k with overruns := rest, tx := some ⟨.overrun, (Reply.refused .overrun .none).frame o.code o.tag⟩ }
    | [] =>
      match k.replyFrame with
      | some f => { k with tx := some ⟨.reply, f⟩ }
      | none =>
        match k.notices with
        | n :: rest => { k with notices := rest, tx := some ⟨.notice, n.frame⟩ }
        | [] => k

/-- The first SERVED request leaves the input queue (R168). -/
def dropServed : List Request → List Request
  | [] => []
  | r :: l => if r.reply.isSome then l else r :: dropServed l

/-- The last byte of the frame being sent has gone (R168, R170): a reply's request leaves the input queue, and the next
frame begins. -/
def HostLink.sent (k : HostLink) : HostLink :=
  match k.tx with
  | none => k
  | some f =>
    let k := { k with tx := none }
    (if f.kind = .reply then { k with input := dropServed k.input } else k).pump

/-! ## The receiver (R166, R167, R168) -/

/-- A received frame: placed in the input queue, or answered OVERRUN when four requests are present (R168). -/
def HostLink.arrive (k : HostLink) (code tag : Nat) (body : List Byte) : HostLink :=
  if k.input.length < 4 then { k with input := k.input ++ [⟨code, tag, body, none⟩] }
  else if k.overruns.length < 8 then { k with overruns := k.overruns ++ [⟨code, tag⟩] }
  else { k with overrunLost := true }

/-- A frame in assembly is discarded and counted (R167). -/
def HostLink.discard (k : HostLink) : HostLink := { k with discarded := min 65535 (k.discarded + 1) }

/-- The bytes from the first start byte on; while hunting every other byte is discarded (R167). -/
def hunt : List Byte → List Byte
  | [] => []
  | b :: l => if b = 0xA7#8 then b :: l else hunt l

/-- What the bytes from a start byte on have come to (R166, R167). -/
inductive Assembly where
  /-- more bytes are awaited -/
  | more
  /-- the frame is discarded: a length outside 2-1024 or a wrong CRC -/
  | bad
  /-- a received frame: code, tag, body, and the bytes after it -/
  | frame (code tag : Nat) (body rest : List Byte)

/-- The bytes after a start byte, judged (R166, R167). -/
def assemble : List Byte → Assembly
  | l1 :: l0 :: rest =>
    let n := l1.toNat * 256 + l0.toNat
    if n < 2 ∨ 1024 < n then .bad
    else if rest.length < n + 2 then .more
    else if rest.drop n |>.take 2 |> (· == encCrc (crc16 (l1 :: l0 :: rest.take n))) then
      match rest with
      | c :: t :: more => .frame c.toNat t.toNat (more.take (n - 2)) (more.drop n)
      | _ => .bad
    else .bad
  | _ => .more

/-- The bytes held worked through: frames received or discarded, each discarded frame rescanned from the byte after its
start byte; at most `fuel` frames (R167). -/
def scanBytes : Nat → List Byte → HostLink → HostLink
  | 0, l, k => { k with rx := l }
  | fuel + 1, l, k =>
    match hunt l with
    | [] => { k with rx := [] }
    | s :: l =>
      match assemble l with
      | .more => { k with rx := s :: l }
      | .bad => scanBytes fuel l k.discard
      | .frame code tag body rest => scanBytes fuel rest (k.arrive code tag body)

/-- The frames in assembly aborted by a framing error or a gap: each is discarded, and the bytes after its start byte are
rescanned for another that is equally aborted (R167). -/
def abortBytes : Nat → List Byte → HostLink → HostLink
  | 0, _, k => { k with rx := [] }
  | fuel + 1, l, k =>
    match hunt l with
    | [] => { k with rx := [] }
    | _ :: l =>
      match assemble l with
      | .frame code tag body rest => abortBytes fuel rest (k.arrive code tag body)
      | _ => abortBytes fuel l k.discard

/-- The frame in assembly, if any, aborted. -/
def HostLink.abort (k : HostLink) : HostLink := abortBytes (k.rx.length + 1) k.rx k

/-- One character received (R167): one with its stop bit low aborts the frame in assembly. DESIGN CHOICE (notes/assumptions
83): its byte is not kept, so a 0xA7 with its stop bit low begins no frame, and while hunting it counts for nothing. -/
def HostLink.receive (k : HostLink) (c : HostChar) : HostLink :=
  if c.stopOk then scanBytes (k.rx.length + 2) (k.rx ++ [c.data]) k else k.abort

/-- Characters received one after the other. -/
def HostLink.receiveAll (k : HostLink) (cs : List HostChar) : HostLink := cs.foldl HostLink.receive k

/-! ## Service (R169) -/

/-- A request SERVED, holding its reply; its body is needed no longer. -/
def Request.served (a : Reply) (r : Request) : Request := { r with body := [], reply := some a }

/-- The head WAITING request served (R169). -/
def serveHead (a : Reply) : List Request → List Request
  | [] => []
  | r :: l => if r.reply.isNone then r.served a :: l else r :: serveHead a l

/-- The head WAITING request. -/
def HostLink.waiting (k : HostLink) : Option Request := k.input.find? fun r => r.reply.isNone

/-- What a received frame asks for. -/
def Request.content (r : Request) : Except FrameFault Instr := decodeRequest r.code r.tag r.body

/-- The frame of a request decodes to a command. -/
def Request.asks (r : Request) (c : Instr) : Bool :=
  match r.content with
  | .ok d => d == c
  | .error _ => false

/-- How a request command finds the input queue. -/
inductive Turn where
  /-- the head WAITING request is this command -/
  | head
  /-- no request waits and there is room: it arrives and is served at this event -/
  | direct
  /-- another request waits before it: it is not its turn -/
  | notNow
  /-- four requests are present, all SERVED: it is dropped and answered OVERRUN (R168) -/
  | overrun
deriving DecidableEq, Repr

/-- The turn of a request command (R168, R169; notes/assumptions 3). -/
def HostLink.turn (k : HostLink) (isHead : Request → Bool) : Turn :=
  match k.waiting with
  | some r => if isHead r then .head else .notNow
  | none => if k.input.length < 4 then .direct else .overrun

/-- The input queue with a command's reply in it. -/
def HostLink.answer (k : HostLink) (t : Turn) (code tag : Nat) (a : Reply) : HostLink :=
  match t with
  | .head => { k with input := serveHead a k.input }
  | _ => { k with input := k.input ++ [⟨code, tag, [], some a⟩] }

/-- A request is served (R169): when its turn has come the owning block answers it, its notices are raised and the
transmitter goes on; when four requests are present it is dropped as R168 states; otherwise nothing changes. -/
def State.serve (s : State) (c : Instr) (tag : Nat) (f : Hall → HostLink → Reply × Hall × HostLink × List Notice) :
    State :=
  match s.link.turn fun r => r.asks c with
  | .notNow => s
  | .overrun => { s with link := (s.link.arrive c.requestCode tag []).pump }
  | t =>
    let r := f s.hall s.link
    { s with hall := r.2.1, link := ((r.2.2.1.answer t c.requestCode tag r.1).raiseAll r.2.2.2).pump }

/-- A request served by a block of the hall. -/
def State.serveHall (s : State) (c : Instr) (tag : Nat) (f : Hall → Answer) : State :=
  s.serve c tag fun h k =>
    let a := f h
    (a.reply, a.hall, k, a.out)

/-- A request served by the Host Link Interface itself. -/
def State.serveLink (s : State) (c : Instr) (tag : Nat) (f : Hall → HostLink → Reply × HostLink) : State :=
  s.serve c tag fun h k =>
    let a := f h k
    (a.1, h, a.2, [])

/-- The refusal of a frame that R169 does not hand on. A HALL_COMMAND with no command's value is refused OUT_OF_RANGE by
R151 check 1. -/
def faultReply : FrameFault → Reply
  | .unknownCode c => .refused .badFormat (.messageCode c)
  | .zeroTag => .refused .badFormat .none
  | .malformed n => .refused .badFormat (.offset n)
  | .undefinedCommand => .refused .outOfRange (.field 1)

/-- A frame that R169 refuses is served (R169, R151): its turn is found as for any request. -/
def State.serveFault (s : State) (code tag : Nat) (body : List Byte) (e : FrameFault) : State :=
  match s.link.turn fun r => r.code == code && r.tag == tag && r.body == body with
  | .notNow => s
  | .overrun => { s with link := (s.link.arrive code tag []).pump }
  | t => { s with link := (s.link.answer t code tag (faultReply e)).pump }

/-- An event that is not a request: its effect on the hall, its notices, and the transmitter. -/
def State.event (s : State) (f : Hall → Hall × List Notice) : State :=
  let r := f s.hall
  { s with hall := r.1, link := (s.link.raiseAll r.2).pump }

end Sys2Proof.Machine
end

