-- ==== Sys2Proof/Machine/SetupCommands.lean ====
section
/-! DEFINITION. The configuration requests (section 8.3): SET_GRADE, SET_RUNWAY, SET_LIMITS, SET_STATION, SET_CRANE,
SET_RACK, SET_LINE and SET_POLL. -/
namespace Sys2Proof.Machine

/-- The range check of a request: the first field outside its range is refused OUT_OF_RANGE by its ordinal (R175). -/
def Hall.checked (h : Hall) (tests : List Bool) (a : Answer) : Answer :=
  match firstBad tests with
  | some n => h.refuse .outOfRange (.field n)
  | none => a

/-- The tests of SET_GRADE (R1). -/
def gradeTests (index : Nat) (name : Text) (density rotation factor : Nat) : List Bool :=
  [decide (index ≤ 15), textOk 8 name, inRange 7000 8200 density, isYesNo rotation, decide (factor ≤ 100)]

/-- SET_GRADE (R1). -/
def Hall.setGrade (index : Nat) (name : Text) (density rotation factor : Nat) (h : Hall) : Answer :=
  h.whenIn [.setup] <| h.checked (gradeTests index name density rotation factor) <|
    match h.cfg.grades.find? fun g => g.name == name && g.index != index with
    | some g => h.refuse .duplicate (.grade g.index)
    | none =>
      let g : Grade := ⟨index, name, density, rotation == 1, factor⟩
      { h with cfg := { h.cfg with grades := Table.put Grade.index g h.cfg.grades } }.accept []

/-- SET_GRADE. -/
def execSetGrade (tag index : Nat) (name : Text) (density rotation factor : Nat) (s : State) :
    Host.Outcome State Fault Refusal :=
  .next (s.serveHall (.setGrade tag index name density rotation factor) tag
    (Hall.setGrade index name density rotation factor))

/-- The tests of SET_RUNWAY (R152); the bay positions are one field, and as many as the bay count. -/
def runwayTests (length separation scrap bayCount : Nat) (bays : List Nat) : List Bool :=
  [inRange 20000 400000 length, inRange 1000 30000 separation, decide (scrap ≤ 400000), inRange 1 8 bayCount,
   bays.length == bayCount && bays.all fun p => decide (p ≤ 400000)]

/-- A bay as SET_RUNWAY configures it (R152, R6). -/
def Bay.initial (b : Nat) : Bay := ⟨b, [], 0, none⟩

/-- SET_RUNWAY (R152). -/
def Hall.setRunway (length separation scrap bayCount : Nat) (bays : List Nat) (h : Hall) : Answer :=
  h.whenIn [.setup] <| h.checked (runwayTests length separation scrap bayCount bays) <|
    { h with
      cfg := { h.cfg with runway := some ⟨length, separation, scrap, bays⟩ }
      fl := { h.fl with bays := (List.range' 1 bayCount).map Bay.initial } }.accept []

/-- SET_RUNWAY. -/
def execSetRunway (tag length separation scrap bayCount : Nat) (bays : List Nat) (s : State) :
    Host.Outcome State Fault Refusal :=
  .next (s.serveHall (.setRunway tag length separation scrap bayCount bays) tag
    (Hall.setRunway length separation scrap bayCount bays))

/-- The tests of SET_LIMITS (R153). -/
def limitTests (jump restore pct absmin minSide minArea : Nat) : List Bool :=
  [inRange 100 20000 jump, decide (restore ≤ 31), inRange 1 25 pct, inRange 5 500 absmin, inRange 200 2000 minSide,
   inRange 1 1000 minArea]

/-- SET_LIMITS (R153): absmin is held in mass units. -/
def Hall.setLimits (jump restore pct absmin minSide minArea : Nat) (h : Hall) : Answer :=
  h.whenIn [.setup] <| h.checked (limitTests jump restore pct absmin minSide minArea) <|
    { h with cfg := { h.cfg with limits := some ⟨jump, restore, pct, absmin * 10, minSide, minArea⟩ } }.accept []

/-- SET_LIMITS. -/
def execSetLimits (tag jump restore pct absmin minSide minArea : Nat) (s : State) : Host.Outcome State Fault Refusal :=
  .next (s.serveHall (.setLimits tag jump restore pct absmin minSide minArea) tag
    (Hall.setLimits jump restore pct absmin minSide minArea))

/-- The tests of SET_STATION (R43). -/
def stationTests (c : StationCfg) : List Bool :=
  [inRange 1 4 c.num, decide (c.address ≤ 30), inRange 200 24000 c.bedL, inRange 200 4800 c.bedW, inRange 30 1500 c.maxT,
   decide (c.position ≤ 400000), inRange 100 60000 c.wearLimit, decide (c.warnLevel ≤ c.wearLimit),
   decide (c.parkCode ≤ 255)]

/-- SET_STATION (R43, R44): address 0 deletes the station. -/
def Hall.setStation (c : StationCfg) (h : Hall) : Answer :=
  h.whenIn [.setup] <| h.checked (stationTests c) <|
    (if c.address = 0 then
      { h with
        cfg := { h.cfg with stations := Table.drop StationCfg.num c.num h.cfg.stations }
        fl := { h.fl with stations := Table.drop Station.num c.num h.fl.stations } }
    else
      { h with
        cfg := { h.cfg with stations := Table.put StationCfg.num c h.cfg.stations }
        fl := { h.fl with stations := Table.put Station.num (Station.initial c.num c.parkCode) h.fl.stations } }).accept []

/-- SET_STATION. -/
def execSetStation (tag station address bedL bedW maxT position wearLimit warnLevel parkCode : Nat) (s : State) :
    Host.Outcome State Fault Refusal :=
  .next (s.serveHall (.setStation tag station address bedL bedW maxT position wearLimit warnLevel parkCode) tag
    (Hall.setStation ⟨station, address, bedL, bedW, maxT, position, wearLimit, warnLevel, parkCode⟩))

/-- The tests of SET_CRANE (R102), on the masses as the request gives them in kg. -/
def craneTests (c : CraneCfg) : List Bool :=
  [inRange 1 2 c.num, decide (c.address ≤ 30), inRange 100 200000 c.swl, decide (c.tare ≤ 199999),
   decide (c.cm ≤ 200000), inRange 30 1500 c.tfull, decide (30 ≤ c.tmin ∧ c.tmin ≤ c.tfull),
   inRange 1000 15000 c.halfSpan, decide (c.limitMin ≤ 400000), decide (c.limitMax ≤ 400000 ∧ c.limitMin ≤ c.limitMax)]

/-- A crane's configuration with its masses in mass units (R102). -/
def CraneCfg.inUnits (c : CraneCfg) : CraneCfg := { c with swl := c.swl * 10, tare := c.tare * 10, cm := c.cm * 10 }

/-- SET_CRANE (R102, R103): address 0 deletes the crane. -/
def Hall.setCrane (c : CraneCfg) (h : Hall) : Answer :=
  h.whenIn [.setup] <| h.checked (craneTests c) <|
    (if c.address = 0 then
      { h with
        cfg := { h.cfg with cranes := Table.drop CraneCfg.num c.num h.cfg.cranes }
        fl := { h.fl with cranes := Table.drop Crane.num c.num h.fl.cranes } }
    else
      { h with
        cfg := { h.cfg with cranes := Table.put CraneCfg.num c.inUnits h.cfg.cranes }
        fl := { h.fl with cranes := Table.put Crane.num (Crane.initial c.num) h.fl.cranes } }).accept []

/-- SET_CRANE. -/
def execSetCrane (tag crane address swl tare cm tfull tmin halfSpan limitMin limitMax : Nat) (s : State) :
    Host.Outcome State Fault Refusal :=
  .next (s.serveHall (.setCrane tag crane address swl tare cm tfull tmin halfSpan limitMin limitMax) tag
    (Hall.setCrane ⟨crane, address, swl, tare, cm, tfull, tmin, halfSpan, limitMin, limitMax⟩))

/-- The tests of SET_RACK (R21), on the mass as the request gives it in kg. -/
def rackTests (c : RackCfg) : List Bool :=
  [inRange 1 4 c.num, inRange 1 30 c.address, c.count == 0 || inRange 4 16 c.count, inRange 200 24000 c.maxL,
   inRange 200 4800 c.maxW, inRange 10 150000 c.maxMass, decide (c.position ≤ 400000)]

/-- The slot total that a rack's new slot count would bring (R21). -/
def Tables.slotTotal (cfg : Tables) (rack count : Nat) : Nat :=
  ((Table.drop RackCfg.num rack cfg.racks).map RackCfg.count).sum + count

/-- SET_RACK (R21, R22): slot count 0 deletes the rack. -/
def Hall.setRack (c : RackCfg) (h : Hall) : Answer :=
  h.whenIn [.setup] <| h.checked (rackTests c) <|
    if 64 < h.cfg.slotTotal c.num c.count then h.refuse .full (.number (h.cfg.slotTotal c.num c.count))
    else
      (if c.count = 0 then
        { h with
          cfg := { h.cfg with racks := Table.drop RackCfg.num c.num h.cfg.racks }
          fl := { h.fl with racks := Table.drop Rack.num c.num h.fl.racks } }
      else
        { h with
          cfg := { h.cfg with racks := Table.put RackCfg.num { c with maxMass := c.maxMass * 10 } h.cfg.racks }
          fl := { h.fl with racks := Table.put Rack.num (Rack.initial c.num c.count) h.fl.racks } }).accept []

/-- SET_RACK. -/
def execSetRack (tag rack address slots maxL maxW maxMass position : Nat) (s : State) :
    Host.Outcome State Fault Refusal :=
  .next (s.serveHall (.setRack tag rack address slots maxL maxW maxMass position) tag
    (Hall.setRack ⟨rack, address, slots, maxL, maxW, maxMass, position⟩))

/-- The tests of SET_LINE (R136). -/
def lineTests (rate window missLimit roundGap : Nat) : List Bool :=
  [decide (rate ≤ 1), inRange 1 20 window, inRange 1 15 missLimit, decide (roundGap ≤ 100)]

/-- SET_LINE (R136). -/
def Hall.setLine (rate window missLimit roundGap : Nat) (h : Hall) : Answer :=
  h.whenIn [.setup] <| h.checked (lineTests rate window missLimit roundGap) <|
    { h with cfg := { h.cfg with line := ⟨rateOf rate, window, missLimit, roundGap⟩ } }.accept []

/-- SET_LINE. -/
def execSetLine (tag rate window missLimit roundGap : Nat) (s : State) : Host.Outcome State Fault Refusal :=
  .next (s.serveHall (.setLine tag rate window missLimit roundGap) tag (Hall.setLine rate window missLimit roundGap))

/-- The tests of SET_POLL (R137). -/
def pollTests (position address kind repetition base : Nat) : List Bool :=
  [inRange 1 10 position, decide (address ≤ 30), (nodeKindOf kind).isSome,
   [1, 2, 4, 8, 16, 32, 64].contains repetition, decide (base < repetition)]

/-- SET_POLL (R137): address 0 deletes the entry. -/
def Hall.setPoll (position address kind repetition base : Nat) (h : Hall) : Answer :=
  h.whenIn [.setup] <| h.checked (pollTests position address kind repetition base) <|
    let polls :=
      if address = 0 then Table.drop PollEntry.position position h.cfg.polls
      else Table.put PollEntry.position ⟨position, address, (nodeKindOf kind).getD .station, repetition, base⟩ h.cfg.polls
    { h with cfg := { h.cfg with polls := polls } }.accept []

/-- SET_POLL. -/
def execSetPoll (tag position address kind repetition base : Nat) (s : State) : Host.Outcome State Fault Refusal :=
  .next (s.serveHall (.setPoll tag position address kind repetition base) tag
    (Hall.setPoll position address kind repetition base))

end Sys2Proof.Machine
end

