-- ==== Sys2Proof/Machine/HallCommands.lean ====
section
/-! DEFINITION. The pins (RESET, STOP), the hall commands (sections 8.2 to 8.7), and the requests for status,
identification and notices. -/
namespace Sys2Proof.Machine

/-! ## Pins -/

/-- The hall at the end of a reset: SETUP, or FROZEN from SETUP with the STOP input held asserted (R149). -/
def Hall.atReset (stopHeld : Bool) : Hall × List Notice :=
  if stopHeld then
    { Hall.initial with
      sup := { Supervisor.initial with stopInput := true, capture := some 0 } }.freeze .stopInput .stopInput
  else (Hall.initial, [])

/-- Power-on reset or RESET_N (R149, R165): every record cleared, RATE latched, STOP read. The commands still to come are
not the part's. -/
def execReset (rateHigh stopHeld : Bool) (s : State) : Host.Outcome State Fault Refusal :=
  let r := Hall.atReset stopHeld
  .next { s with hall := r.1, link := ((HostLink.initial rateHigh).raiseAll r.2).pump }

/-- The STOP input changes to ASSERTED (R159): a freeze, or a new capture time in FROZEN. -/
def Hall.stopAsserted (h : Hall) : Hall × List Notice :=
  let h := { h with sup := { h.sup with stopInput := true, capture := some h.sup.clock } }
  if h.sup.state = .frozen then h.close [h.hallNotice .stopAsserted .frozen]
  else h.freeze .stopInput .stopInput

/-- STOP_ASSERTED: a change of the input; an input that is asserted already does not change (R159). -/
def execStopAsserted (s : State) : Host.Outcome State Fault Refusal :=
  .next (if s.hall.sup.stopInput then s else s.event Hall.stopAsserted)

/-- The STOP input changes to RELEASED (R159): the input and its HALL notice. -/
def Hall.stopReleased (h : Hall) : Hall × List Notice :=
  let h := { h with sup := { h.sup with stopInput := false } }
  h.close [h.hallNotice .stopReleased h.sup.state]

/-- STOP_RELEASED: a change of the input; an input that is released already does not change (R159). -/
def execStopReleased (s : State) : Host.Outcome State Fault Refusal :=
  .next (if s.hall.sup.stopInput then s.event Hall.stopReleased else s)

/-! ## HALL_COMMAND (R151) -/

/-- COMMIT_SETUP (R154, R155). -/
def Hall.commitSetup (h : Hall) : Answer :=
  h.command [.setup] fun h =>
    match h.cfg.commitFault with
    | some (code, d) => h.refuse code d
    | none => h.changeTo .ready 1 fun x w => w.commitSetup x

/-- COMMIT_SETUP. -/
def execCommitSetup (tag : Nat) (s : State) : Host.Outcome State Fault Refusal :=
  .next (s.serveHall (.commitSetup tag) tag Hall.commitSetup)

/-- The position of a crane that is UP and has one. -/
def Crane.known (k : Crane) : Bool := k.up && k.position.isSome

/-- How far the cranes fall short of standing apart (R156 condition 2); none when they are apart or there is one. -/
def Hall.shortfall (h : Hall) : Option Nat :=
  match h.cfg.crane? 1, h.cfg.crane? 2 with
  | some a, some b =>
    let west := h.fl.positionOf 1 + a.halfSpan + h.cfg.separation + b.halfSpan
    let east := h.fl.positionOf 2
    if west ≤ east then none else some (west - east)
  | _, _ => none

/-- START (R156). -/
def Hall.start (h : Hall) : Answer :=
  h.command [.ready] fun h =>
    match h.fl.cranes.find? fun k => !k.known with
    | some k => h.refuse .craneUnknown (.crane k.num)
    | none =>
      match h.shortfall with
      | some d => h.refuse .cranesTooClose (.number d)
      | none => h.changeTo .run 2 fun x w => w.startHall x

/-- START. -/
def execStart (tag : Nat) (s : State) : Host.Outcome State Fault Refusal :=
  .next (s.serveHall (.start tag) tag Hall.start)

/-- HOLD (R157): in HOLDING and HELD it changes nothing. -/
def Hall.hold (h : Hall) : Answer :=
  h.command [.run, .holding, .held] fun h =>
    if h.sup.state = .run then h.changeTo .holding 3 fun x w => w.addReasonAll x .hall
    else h.accept (enc1 h.sup.state.code)

/-- HOLD. -/
def execHold (tag : Nat) (s : State) : Host.Outcome State Fault Refusal :=
  .next (s.serveHall (.hold tag) tag Hall.hold)

/-- RESUME (R158). -/
def Hall.resume (h : Hall) : Answer :=
  h.command [.holding, .held] fun h => h.changeTo .run 4 fun x w => w.resumeHall x

/-- RESUME. -/
def execResume (tag : Nat) (s : State) : Host.Outcome State Fault Refusal :=
  .next (s.serveHall (.resume tag) tag Hall.resume)

/-- FREEZE (R159): in FROZEN it changes nothing. -/
def Hall.freezeCommand (h : Hall) : Answer :=
  h.command [.setup, .ready, .run, .holding, .held, .frozen] fun h =>
    if h.sup.state = .frozen then h.accept (enc1 h.sup.state.code)
    else commandReply (h.freeze .command (.command 5)) []

/-- FREEZE. -/
def execFreeze (tag : Nat) (s : State) : Host.Outcome State Fault Refusal :=
  .next (s.serveHall (.freeze tag) tag Hall.freezeCommand)

/-- The state that CLEAR_FREEZE returns to (R160). -/
def HallState.afterFreeze : Option HallState → HallState
  | some .setup => .setup
  | some .ready => .ready
  | _ => .held

/-- What the floor does as the hall leaves FROZEN (R160): in READY the FROZEN reasons and stop causes leave; the timers
run on and the outboxes drain; SETUP is entered by R161. -/
def Work.leaveFrozen (x : Ctx) (w : Work) : Work :=
  match x.hall with
  | .setup => w.enterSetup x
  | .ready =>
    let w := w.onTimers Timer.unpause
    ((w.removeReasonsAll x [.frozen]).clearStops x false).drainAll x
  | _ => (w.onTimers Timer.unpause).drainAll x

/-- CLEAR_FREEZE (R160). -/
def Hall.clearFreeze (h : Hall) : Answer :=
  h.command [.frozen] fun h =>
    if h.sup.stopInput then h.refuse .stopActive (.number (h.sup.capture.getD 0))
    else h.changeTo (HallState.afterFreeze h.sup.frozenFrom) 6 fun x w => w.leaveFrozen x

/-- CLEAR_FREEZE. -/
def execClearFreeze (tag : Nat) (s : State) : Host.Outcome State Fault Refusal :=
  .next (s.serveHall (.clearFreeze tag) tag Hall.clearFreeze)

/-- What keeps the hall from RECONFIGURE: the lowest job, plate or move present (R161). -/
def Floor.inUse (fl : Floor) : Option Detail :=
  ((least (fl.jobs.map Job.id)).map Detail.job).or
    (((least (fl.plates.map Plate.id)).map Detail.plate).or ((least (fl.moves.map Move.tag)).map Detail.move))

/-- RECONFIGURE (R161). -/
def Hall.reconfigure (h : Hall) : Answer :=
  h.command [.ready, .held] fun h =>
    match h.fl.inUse with
    | some d => h.refuse .inUse d
    | none => h.changeTo .setup 7 fun x w => w.enterSetup x

/-- RECONFIGURE. -/
def execReconfigure (tag : Nat) (s : State) : Host.Outcome State Fault Refusal :=
  .next (s.serveHall (.reconfigure tag) tag Hall.reconfigure)

/-- CLEAR_REGISTER (R162): the reply carries the hall state, the numbers of plates, jobs and moves after the clear, and
the next-id counter. DESIGN CHOICE (notes/assumptions 82): the hall state of R151 stands before the figures of R162. -/
def Hall.clearRegister (h : Hall) : Answer :=
  h.command [.setup] fun h =>
    let fl := h.fl.clearRegister
    { h with fl := fl }.accept
      (enc1 h.sup.state.code ++ enc1 fl.plates.length ++ enc1 fl.jobs.length ++ enc1 fl.moves.length ++ enc2 fl.nextId)

/-- CLEAR_REGISTER. -/
def execClearRegister (tag : Nat) (s : State) : Host.Outcome State Fault Refusal :=
  .next (s.serveHall (.clearRegister tag) tag Hall.clearRegister)

/-! ## Status, identification and notices -/

/-- READ_HALL (R164). -/
def execReadHall (tag : Nat) (s : State) : Host.Outcome State Fault Refusal :=
  .next (s.serveHall (.readHall tag) tag fun h => h.accept (encHall h))

/-- The indications of loss cleared once their values are in a reply (R173). -/
def HostLink.clearLosses (k : HostLink) : HostLink :=
  { k with noticesLost := false, lostCount := 0, overrunLost := false, discarded := 0 }

/-- GET_STATUS (R173). -/
def execGetStatus (tag : Nat) (s : State) : Host.Outcome State Fault Refusal :=
  .next (s.serveLink (.getStatus tag) tag fun h k => (.accepted (encStatus h k), k.clearLosses))

/-- IDENTIFY (R174). -/
def execIdentify (tag : Nat) (s : State) : Host.Outcome State Fault Refusal :=
  .next (s.serveLink (.identify tag) tag fun _ k => (.accepted (encIdentity k.rateHigh), k))

/-- What SET_NOTICES refuses (R172): a list of more than ten, a value that names no kind, a kind in both lists. DESIGN CHOICE
(notes/assumptions 29): the value goes as a number, detail kind 5, and not as a message code; of several values that name no
kind the first in body order is named, before any kind in both lists, and of several such kinds the first of the enable
list. -/
def noticesFault (enable disable : List Nat) : Option Detail :=
  if 10 < enable.length then some (.field 1)
  else if 10 < disable.length then some (.field 2)
  else
    ((enable ++ disable).find? fun v => (noticeKindOf v).isNone).or (enable.find? fun v => disable.contains v)
      |>.map Detail.number

/-- The notice enable set after SET_NOTICES (R172). -/
def enabledAfter (old : List NoticeKind) (enable disable : List Nat) : List NoticeKind :=
  NoticeKind.all.filter fun k => enable.contains k.code || (old.contains k && !disable.contains k.code)

/-- SET_NOTICES (R172). -/
def HostLink.setNotices (enable disable : List Nat) (k : HostLink) : Reply × HostLink :=
  match noticesFault enable disable with
  | some d => (.refused .outOfRange d, k)
  | none =>
    let set := enabledAfter k.enabled enable disable
    (.accepted (encEnabled set), { k with enabled := set })

/-- SET_NOTICES. -/
def execSetNotices (tag : Nat) (enable disable : List Nat) (s : State) : Host.Outcome State Fault Refusal :=
  .next (s.serveLink (.setNotices tag enable disable) tag fun _ k => k.setNotices enable disable)

end Sys2Proof.Machine
end

