-- ==== Sys2Proof/Machine/PlateCommands.lean ====
section
/-! DEFINITION. The requests of the Plate Register (section 1.6) and of the Stock Manager (sections 2.6, 2.7). -/
namespace Sys2Proof.Machine

/-! ## Plate Register -/

/-- The record that REGISTER_PLATE or PLACE_REMNANT creates (R2): A and M computed, registered at the hall clock. -/
def Hall.newPlate (h : Hall) (kind : PlateKind) (grade thickness : Nat) (heat : Text) (len wid : Nat)
    (notch : Option Notch) (loc : Location) : Plate :=
  let a := areaOf len wid notch
  { id := h.fl.issueId, kind, grade, thickness, heat, len, wid, notch, area := a,
    mass := massOf a thickness (h.cfg.density grade), generation := if kind = .raw then 0 else 1, parent := none,
    location := loc, hold := .free, registeredAt := h.sup.clock }

/-- REGISTER_PLATE (R7), its checks in order. -/
def Hall.registerPlate (bay grade thickness : Nat) (heat : Text) (len wid corner nl nw : Nat) (h : Hall) : Answer :=
  h.whenIn workingStates <| h.checked (true :: plateTests grade thickness heat len wid corner nl nw) <|
    match h.fl.bay? bay with
    | none => h.refuse .unknownItem (.bay bay)
    | some b =>
      if (h.cfg.grade? grade).isNone then h.refuse .unknownItem (.grade grade)
      else if 96 ≤ h.fl.plates.length then h.refuse .full .none
      else if b.claim.isSome then h.refuse .inUse (.bay bay)
      else if 6 ≤ b.stack.length + b.incoming then h.refuse .bayFull (.bay bay)
      else
        let level := b.stack.length + 1
        let p := h.newPlate .raw grade thickness heat len wid (notchOf corner nl nw) (.bay bay level)
        h.acceptWith (enc2 p.id ++ enc1 level ++ enc4 p.area ++ enc4 p.mass) fun _ w =>
          (w.addPlate p).pushBay bay p.id

/-- REGISTER_PLATE. -/
def execRegisterPlate (tag bay grade thickness : Nat) (heat : Text) (len wid corner nl nw : Nat) (s : State) :
    Host.Outcome State Fault Refusal :=
  .next (s.serveHall (.registerPlate tag bay grade thickness heat len wid corner nl nw) tag
    (Hall.registerPlate bay grade thickness heat len wid corner nl nw))

/-- READ_PLATE (R8). -/
def Hall.readPlate (id : Nat) (h : Hall) : Answer :=
  match h.fl.plate? id with
  | none => h.refuse .unknownItem .none
  | some p => h.accept p.encode

/-- READ_PLATE. -/
def execReadPlate (tag plate : Nat) (s : State) : Host.Outcome State Fault Refusal :=
  .next (s.serveHall (.readPlate tag plate) tag (Hall.readPlate plate))

/-- A job of a station that waits at STORE with its remnant LIFT_FAILED, and that remnant (R96). -/
def Floor.failedStore (fl : Floor) (n id : Nat) : Option Job :=
  if (fl.station? n).any fun st => st.cond == .liftFailed then
    (fl.leadJob n).filter fun j => j.step? == some .store && j.closeOut.bind CloseOut.remnant == some id
  else none

/-- A quarantined plate released (R9); on a bed, the release of a LIFT_FAILED remnant asks for its store again (R96). -/
def Work.releasePlate (x : Ctx) (p : Plate) (w : Work) : Work :=
  let w := w.setHold p.id .free
  match p.location with
  | .station n =>
    match w.fl.failedStore n p.id with
    | some j => (w.setCond n .none).storeRequest x j.id
    | none => w
  | _ => w

/-- RELEASE_PLATE (R9). -/
def Hall.releasePlate (id : Nat) (h : Hall) : Answer :=
  h.whenIn workingStates <|
    match h.fl.plate? id with
    | none => h.refuse .unknownItem .none
    | some p =>
      match p.hold with
      | .free => h.accept []
      | .quarantined => h.acceptWith [] fun x w => w.releasePlate x p
      | _ => h.refuse .notFree p.hold.detail

/-- RELEASE_PLATE. -/
def execReleasePlate (tag plate : Nat) (s : State) : Host.Outcome State Fault Refusal :=
  .next (s.serveHall (.releasePlate tag plate) tag (Hall.releasePlate plate))

/-- The move whose load a plate is (R10, R109). -/
def Floor.loadMove (fl : Floor) (id : Nat) : Option Move := fl.moves.find? fun m => m.load == .plate id

/-- The checks of REMOVE_PLATE on a present plate, in order (R10). -/
def Floor.removeFault (fl : Floor) (p : Plate) : Option (RefusalCode × Detail) :=
  match fl.loadMove p.id with
  | some m => some (.inUse, .move m.tag)
  | none =>
    match p.hold, p.location with
    | .reserved _, _ | .committed _, _ | .missing, _ => some (.notFree, .none)
    | .quarantined, .rack _ _ => some (.wrongLocation, .none)
    | .quarantined, _ => none
    | .free, .bay b _ => if (fl.bay? b).any fun k => k.topIs p.id then none else some (.notTop, .none)
    | .free, .station n =>
      if (fl.station? n).any fun st => st.state == .loaded then none else some (.wrongLocation, .none)
    | .free, _ => some (.wrongLocation, .none)

/-- A plate removed by the host (R10): the record deleted; a LOADED station whose bed it leaves becomes VACANT (R45), and
the store of a LIFT_FAILED remnant ends (R96). -/
def Work.removePlate (x : Ctx) (p : Plate) (w : Work) : Work :=
  match p.location with
  | .station n =>
    let failed := w.fl.failedStore n p.id
    let w := w.deletePlate p.id
    match failed with
    | some j => (w.setCond n .none).beginSkeleton x j.id
    | none =>
      if (w.fl.station? n).any fun st => st.state == .loaded then (w.changeState x n .vacant).wantScan else w
  | _ => w.deletePlate p.id

/-- REMOVE_PLATE (R10). -/
def Hall.removePlate (id : Nat) (h : Hall) : Answer :=
  h.whenIn workingStates <|
    match h.fl.plate? id with
    | none => h.refuse .unknownItem .none
    | some p =>
      match h.fl.removeFault p with
      | some (code, d) => h.refuse code d
      | none => h.acceptWith (enc2 id) fun x w => w.removePlate x p

/-- REMOVE_PLATE. -/
def execRemovePlate (tag plate : Nat) (s : State) : Host.Outcome State Fault Refusal :=
  .next (s.serveHall (.removePlate tag plate) tag (Hall.removePlate plate))

/-! ## Stock Manager -/

/-- What makes a slot IN_USE for PLACE_REMNANT (R32 check 5): its plate, or the tag of the move that uses or claims it.
DESIGN CHOICE (notes/assumptions 47): a slot that is in use by VERIFY_IN or VERIFY_OUT alone, its register empty and no move
claiming it, has neither, and the detail item is none. -/
def Floor.slotUse (fl : Floor) (r n : Nat) (s : Slot) : Option Detail :=
  match s.register with
  | some p => some (.plate p)
  | none =>
    match s.transfer.tag.or (fl.claimant r n) with
    | some t => some (.move t)
    | none => if s.transfer = .none then none else some .none

/-- The first limit of a rack's slots that a plate exceeds, in the order L, W, mass (R32 check 6, section 10.3). -/
def RackCfg.exceeded (c : RackCfg) (len wid mass : Nat) : Option Nat :=
  if c.maxL < len then some c.maxL
  else if c.maxW < wid then some c.maxW
  else if c.maxMass < mass then some c.maxMass
  else none

/-- A remnant placed in its slot: evaluated at once when sensed OCCUPIED, verified when UNKNOWN (R32). -/
def Work.placeRemnant (x : Ctx) (r n : Nat) (p : Plate) (w : Work) : Work :=
  let occupied := (w.fl.slot? r n).any fun s => s.sensed == .occupied
  let w := w.addPlate p
  if occupied then (w.onSlot r n fun s => { s with register := some p.id }).evaluateSlot x r n .placeRemnant
  else w.onSlot r n fun s => { s.restart with register := some p.id, transfer := .verifyIn }

/-- PLACE_REMNANT (R32), its checks in order. -/
def Hall.placeRemnant (rack slot grade thickness : Nat) (heat : Text) (len wid corner nl nw : Nat) (h : Hall) : Answer :=
  h.whenIn workingStates <|
    h.checked (true :: true :: plateTests grade thickness heat len wid corner nl nw) <|
    match h.cfg.rack? rack, h.fl.slot? rack slot with
    | some c, some s =>
      let p := h.newPlate .remnant grade thickness heat len wid (notchOf corner nl nw) (.rack rack slot)
      if (h.cfg.grade? grade).isNone then h.refuse .unknownItem (.grade grade)
      else if 96 ≤ h.fl.plates.length then h.refuse .full .none
      else
        match h.fl.slotUse rack slot s with
        | some d => h.refuse .inUse d
        | none =>
          match c.exceeded p.len p.wid p.mass with
          | some limit => h.refuse .plateTooLarge (.number limit)
          | none =>
            if s.sensed = .empty then h.refuse .sensedEmpty .none
            else
              h.acceptWith (enc2 p.id ++ enc4 p.area ++ enc4 p.mass) fun x w => w.placeRemnant x rack slot p
    | _, _ => h.refuse .unknownItem .none

/-- PLACE_REMNANT. -/
def execPlaceRemnant (tag rack slot grade thickness : Nat) (heat : Text) (len wid corner nl nw : Nat) (s : State) :
    Host.Outcome State Fault Refusal :=
  .next (s.serveHall (.placeRemnant tag rack slot grade thickness heat len wid corner nl nw) tag
    (Hall.placeRemnant rack slot grade thickness heat len wid corner nl nw))

/-- RECONCILE_SLOT ACCEPT_EMPTY (R33): the missing plate's record is deleted and the slot evaluated. DESIGN CHOICE
(notes/assumptions 48): where the dispute stands at MISSING_PLATE while the register is empty already, there is no plate to
delete, and the request is refused NOT_ACCEPTED with the dispute. -/
def Hall.acceptEmpty (rack slot : Nat) (h : Hall) : Answer :=
  h.whenIn workingStates <|
    match h.fl.slot? rack slot with
    | none => h.refuse .unknownItem .none
    | some s =>
      match s.dispute, s.register with
      | .missingPlate, some p =>
        match h.fl.loadMove p with
        | some m => h.refuse .inUse (.move m.tag)
        | none =>
          h.acceptWith (enc2 p) fun x w => (w.deletePlate p).evaluateSlot x rack slot .acceptEmpty
      | d, _ => h.refuse .notAccepted d.detail

/-- ACCEPT_EMPTY. -/
def execAcceptEmpty (tag rack slot : Nat) (s : State) : Host.Outcome State Fault Refusal :=
  .next (s.serveHall (.acceptEmpty tag rack slot) tag (Hall.acceptEmpty rack slot))

/-- RECONCILE_SLOT RECHECK (R34): the slot is decided afresh. -/
def Hall.recheck (rack slot : Nat) (h : Hall) : Answer :=
  h.whenIn workingStates <|
    match h.fl.slot? rack slot with
    | none => h.refuse .unknownItem .none
    | some s =>
      match s.transfer.tag with
      | some t => h.refuse .inMotion (.move t)
      | none => h.acceptWith [] fun _ w => w.onSlot rack slot fun s => { s.restart with recheck := true }

/-- RECHECK. -/
def execRecheck (tag rack slot : Nat) (s : State) : Host.Outcome State Fault Refusal :=
  .next (s.serveHall (.recheck tag rack slot) tag (Hall.recheck rack slot))

/-- RECONCILE_SLOT with ACCEPT_OBJECT, which is refused, or with a value that is no action (R34). -/
def Hall.acceptObject (action : Nat) (h : Hall) : Answer :=
  h.whenIn workingStates <|
    if action = 3 then h.refuse .notAccepted (.enumerated 0 3) else h.refuse .outOfRange (.field 3)

/-- ACCEPT_OBJECT. -/
def execAcceptObject (tag rack slot action : Nat) (s : State) : Host.Outcome State Fault Refusal :=
  .next (s.serveHall (.acceptObject tag rack slot action) tag (Hall.acceptObject action))

/-- READ_RACK (R35). -/
def Hall.readRack (rack : Nat) (h : Hall) : Answer :=
  match h.cfg.rack? rack, h.fl.rack? rack with
  | some c, some k => h.accept (encRack h.fl c k)
  | _, _ => h.refuse .unknownItem .none

/-- READ_RACK. -/
def execReadRack (tag rack : Nat) (s : State) : Host.Outcome State Fault Refusal :=
  .next (s.serveHall (.readRack tag rack) tag (Hall.readRack rack))

/-- An item of a FIND_STOCK reply (R38). -/
def encFound (f : Plate × Bool × Placement) : List Byte :=
  let p := f.1
  enc2 p.id ++ enc1 p.location.numbers.2.1 ++ enc1 p.location.numbers.2.2 ++ enc2 p.len ++ enc2 p.wid
    ++ encNotch p.notch ++ enc4 p.area ++ enc4 p.mass ++ encText p.heat ++ enc1 p.generation ++ encBool f.2.1
    ++ enc1 f.2.2.code

/-- The tests of FIND_STOCK (R36). -/
def findTests (grade thickness needL needW rotate count : Nat) : List Bool :=
  [decide (grade ≤ 15), inRange 30 1500 thickness, inRange 1 24000 needL, inRange 1 24000 needW, isYesNo rotate,
   decide (count ≤ 4)]

/-- FIND_STOCK (R36-R38). -/
def Hall.findStock (grade thickness needL needW rotate count : Nat) (h : Hall) : Answer :=
  h.checked (findTests grade thickness needL needW rotate count) <|
    if (h.cfg.grade? grade).isNone then h.refuse .unknownItem (.grade grade)
    else h.accept (encList encFound (h.fl.findStock h.cfg grade thickness needL needW (rotate == 1) count))

/-- FIND_STOCK. -/
def execFindStock (tag grade thickness needL needW rotate count : Nat) (s : State) : Host.Outcome State Fault Refusal :=
  .next (s.serveHall (.findStock tag grade thickness needL needW rotate count) tag
    (Hall.findStock grade thickness needL needW rotate count))

end Sys2Proof.Machine
end

