-- ==== Sys2Proof/Machine/StationCommands.lean ====
section
/-! DEFINITION. The requests of the Station Sequencers (sections 3.5 to 3.10) and of the Mark Composer (chapter 4). -/
namespace Sys2Proof.Machine

/-! ## Station Sequencers -/

/-- READY, RUN, HOLDING, HELD and FROZEN (section 9.5). -/
def outsideSetup : List HallState := [.ready, .run, .holding, .held, .frozen]

/-- A station's hold set after a request, as its reply carries it (R53, R55). -/
def Hall.holdReply (n : Nat) (r : Hall × List Notice) : Answer :=
  ⟨.accepted (enc1 (((r.1.fl.station? n).map fun st => st.hold.bits).getD 0)), r.1, r.2⟩

/-- STATION_HOLD (R53). -/
def Hall.stationHold (n : Nat) (h : Hall) : Answer :=
  h.whenIn outsideSetup <|
    match h.fl.station? n with
    | none => h.refuse .unknownItem .none
    | some _ => h.acceptWith [] fun x w => w.addReason x n .host

/-- STATION_HOLD. -/
def execStationHold (tag station : Nat) (s : State) : Host.Outcome State Fault Refusal :=
  .next (s.serveHall (.stationHold tag station) tag (Hall.stationHold station))

/-- STATION_RESUME (R53): the reply carries the hold set after the request. -/
def Hall.stationResume (n : Nat) (h : Hall) : Answer :=
  h.whenIn outsideSetup <|
    match h.fl.station? n with
    | none => h.refuse .unknownItem .none
    | some _ => Hall.holdReply n (h.onFloor [] fun x w => w.removeReason x n .host)

/-- STATION_RESUME. -/
def execStationResume (tag station : Nat) (s : State) : Host.Outcome State Fault Refusal :=
  .next (s.serveHall (.stationResume tag station) tag (Hall.stationResume station))

/-- The torch consumables of a station have been replaced (R55, steps 1-3). -/
def Work.consumablesChanged (x : Ctx) (n : Nat) (w : Work) : Work :=
  let w := w.onStation n fun st => { st with wear := 0 }
  let held := (w.fl.station? n).any fun st => st.state == .held
  (if held then w.addReason x n .host else w).removeReason x n .consumables

/-- CONSUMABLES_CHANGED (R55). -/
def Hall.consumablesChanged (n : Nat) (h : Hall) : Answer :=
  h.whenIn outsideSetup <|
    match h.fl.station? n with
    | none => h.refuse .unknownItem .none
    | some st =>
      match st.entry with
      | some e => h.refuse .active (.entry e.index)
      | none => Hall.holdReply n (h.onFloor [] fun x w => w.consumablesChanged x n)

/-- CONSUMABLES_CHANGED. -/
def execConsumablesChanged (tag station : Nat) (s : State) : Host.Outcome State Fault Refusal :=
  .next (s.serveHall (.consumablesChanged tag station) tag (Hall.consumablesChanged station))

/-- READ_STATION (R61). -/
def Hall.readStation (n : Nat) (h : Hall) : Answer :=
  match h.cfg.station? n, h.fl.station? n with
  | some c, some st => h.accept (encStation c st)
  | _, _ => h.refuse .unknownItem .none

/-- READ_STATION. -/
def execReadStation (tag station : Nat) (s : State) : Host.Outcome State Fault Refusal :=
  .next (s.serveHall (.readStation tag station) tag (Hall.readStation station))

/-! ## Templates -/

/-- SETUP, READY, RUN, HOLDING and HELD (section 9.5). -/
def outsideFrozen : List HallState := [.setup, .ready, .run, .holding, .held]

/-- The first SERIAL field that names a counter named before it, by its place from 1 (R64 check 2). -/
def repeatedSerial (seen : List Nat) : Nat → List Field → Option Nat
  | _, [] => none
  | i, f :: fs =>
    match f.counter? with
    | some c => if seen.contains c then some i else repeatedSerial (c :: seen) (i + 1) fs
    | none => repeatedSerial seen (i + 1) fs

/-- DEFINE_TEMPLATE (R64), its checks in order; field i of the list is field 2 + i of the body. -/
def Hall.defineTemplate (id count : Nat) (fields : List RawField) (h : Hall) : Answer :=
  h.whenIn outsideFrozen <|
    h.checked ([inRange 1 16 id, decide (count ≤ 6)] ++ fields.map fun f => (fieldOf f).isSome) <|
    let fs := fields.filterMap fieldOf
    match repeatedSerial [] 1 fs with
    | some i => h.refuse .duplicate (.field (2 + i))
    | none =>
      match h.fl.lowestReferrer id with
      | some j => h.refuse .inUse (.job j)
      | none =>
        let width := worstWidth h.fl.counterWidth fs
        if 32 < width then h.refuse .templateTooLong (.number width)
        else
          let ts :=
            if count = 0 then Table.drop Template.id id h.templates else Table.put Template.id ⟨id, fs⟩ h.templates
          { h with templates := ts }.accept (enc1 id ++ enc1 width)

/-- DEFINE_TEMPLATE. -/
def execDefineTemplate (tag template fieldCount : Nat) (fields : List RawField) (s : State) :
    Host.Outcome State Fault Refusal :=
  .next (s.serveHall (.defineTemplate tag template fieldCount fields) tag (Hall.defineTemplate template fieldCount fields))

/-- The READ_TEMPLATE reply (R66): whether defined, the fields and the worst-case width of a defined one, whether
referenced, the lowest referencing job. An optional field is always carried (section 10.1): for an undefined template the
list has the count 0, and the width, of which 0 is no legal value, is 0. -/
def encTemplate (fl : Floor) (ts : List Template) (id : Nat) : List Byte :=
  let r := fl.lowestReferrer id
  (match templateOf ts id with
    | some t => encBool true ++ encList Field.encode t.fields ++ enc1 (worstWidth fl.counterWidth t.fields)
    | none => encBool false ++ encList Field.encode [] ++ enc1 0)
    ++ encBool r.isSome ++ encOpt2 r

/-- READ_TEMPLATE (R66). -/
def Hall.readTemplate (id : Nat) (h : Hall) : Answer :=
  h.checked [inRange 1 16 id] (h.accept (encTemplate h.fl h.templates id))

/-- READ_TEMPLATE. -/
def execReadTemplate (tag template : Nat) (s : State) : Host.Outcome State Fault Refusal :=
  .next (s.serveHall (.readTemplate tag template) tag (Hall.readTemplate template))

/-! ## Serial counters -/

/-- The worst-case widths with one counter's width set anew (R71 check 4). -/
def Floor.widthWith (fl : Floor) (c width : Nat) (k : Nat) : Nat := if k = c then width else fl.counterWidth k

/-- The lowest defined template naming a counter that a width would carry above 32 (R71 check 4). -/
def Hall.templateOver (h : Hall) (c width : Nat) : Option Nat :=
  (h.templates.find? fun t =>
    (fieldCounters t.fields).contains c && decide (32 < worstWidth (h.fl.widthWith c width) t.fields)).map Template.id

/-- The stations that a counter holds (R71). -/
def Floor.heldOn (fl : Floor) (c : Nat) : List Nat :=
  (fl.stations.filter fun st => st.exhausted == some c).map Station.num

/-- A counter set (R71): its width and next, exhausted NO; last issued and last draw kept. -/
def Counter.reset (width next : Nat) (c : Counter) : Counter :=
  { c with width := some width, next := some next, exhausted := false }

/-- A counter set, every station held on it released, and its SERIAL notice, which follows the release and shows the
counter as it was set (R71, R52, notes/assumptions 28). -/
def Work.setCounter (x : Ctx) (c width next : Nat) (w : Work) : Work :=
  let held := w.fl.heldOn c
  let w := w.onCounter c (Counter.reset width next)
  let shown := w.fl.counter? c
  let w := held.foldl (fun w n =>
    (w.onStation n fun st => { st with exhausted := none }).removeReason x n .serialExhausted) w
  match shown with
  | some k => w.note x (.serial (.set held) k)
  | none => w

/-- SET_COUNTER (R71), its checks in order. The reply carries the counter as it was set, with the last issued value it was
checked against (R72), and the stations released. -/
def Hall.setCounter (id width next : Nat) (h : Hall) : Answer :=
  h.whenIn outsideFrozen <|
    h.checked [inRange 1 8 id, inRange 1 8 width, decide (next < 10 ^ width)] <|
    match h.fl.counter? id with
    | none => h.refuse .unknownItem (.counter id)
    | some c =>
      match c.last.filter fun l => decide (next ≤ l) with
      | some l => h.refuse .counterBackwards (.number l)
      | none =>
        match h.templateOver id width with
        | some t => h.refuse .templateTooLong (.template t)
        | none =>
          h.acceptWith ((c.reset width next).encode ++ encList enc1 (h.fl.heldOn id)) fun x w =>
            w.setCounter x id width next

/-- SET_COUNTER. -/
def execSetCounter (tag counter width next : Nat) (s : State) : Host.Outcome State Fault Refusal :=
  .next (s.serveHall (.setCounter tag counter width next) tag (Hall.setCounter counter width next))

/-- READ_COUNTER (R73). -/
def Hall.readCounter (id : Nat) (h : Hall) : Answer :=
  h.checked [inRange 1 8 id] <|
    match h.fl.counter? id with
    | some c => h.accept c.encode
    | none => h.refuse .unknownItem (.counter id)

/-- READ_COUNTER. -/
def execReadCounter (tag counter : Nat) (s : State) : Host.Outcome State Fault Refusal :=
  .next (s.serveHall (.readCounter tag counter) tag (Hall.readCounter counter))

end Sys2Proof.Machine
end

