-- ==== Sys2Proof/Machine/JobCommands.lean ====
section
/-! DEFINITION. The requests of the Job Manager (chapter 5): ADMIT_JOB, READ_JOB, READ_QUEUE, CANCEL_JOB, SCRAP_REMNANT and
SKELETON_MANUAL. -/
namespace Sys2Proof.Machine

/-! ## Admission (R80, R81) -/

/-- What ADMIT_JOB carries, as its body gives it (section 10.3). -/
structure Admission where
  job      : Nat
  station  : Nat
  plate    : Nat
  nest     : Nat
  policy   : Nat
  expedite : Nat
  code     : Nat
  count    : Nat
  declared : Nat
  len      : Nat
  wid      : Nat
  corner   : Nat
  nl       : Nat
  nw       : Nat
  entries  : List RawEntry

/-- The tests of check 0, in the order of the body (R80, R175): the remnant fields only with a declaration. DESIGN CHOICE
(notes/assumptions 12): each entry has five fields with an ordinal each, the first entry's from 15 on. -/
def Admission.tests (a : Admission) : List Bool :=
  [inRange 1 65535 a.job, inRange 1 4 a.station, true, true, isYesNo a.policy, isYesNo a.expedite, true, true,
   isYesNo a.declared]
    ++ (if a.declared = 0 then [true, true, true, true, true] else shapeTests a.len a.wid a.corner a.nl a.nw)
    ++ a.entries.flatMap entryTests

/-- The remnant area declared; 0 without a declaration. -/
def Admission.remnantArea (a : Admission) : Nat :=
  if a.declared = 0 then 0 else areaOf a.len a.wid (notchOf a.corner a.nl a.nw)

/-- The sum of check 9: every entry area and the declared remnant area. -/
def Admission.areaSum (a : Admission) : Nat := (a.entries.map RawEntry.area).sum + a.remnantArea

/-- The SEPARATION entries' indices, from 1. -/
def Admission.separations (a : Admission) : List Nat :=
  (a.entries.zipIdx.filter fun e => e.1.kind == 1).map fun e => e.2 + 1

/-- The index of the first entry at which the part numbers of the PART entries pass `limit` symbols in total. -/
def overLong (limit : Nat) : Nat → Nat → List RawEntry → Option Nat
  | _, _, [] => none
  | i, sum, e :: es =>
    let sum := if e.kind = 1 then sum else sum + e.partNo.length
    if limit < sum then some i else overLong limit (i + 1) sum es

/-- Check 4 of R80: the entry index of a burn list that is refused BAD_LIST, 0 for the count or the declaration. DESIGN
CHOICE (notes/assumptions 54): of several SEPARATION entries the second is named, before any that is not last. -/
def Admission.badList (a : Admission) (ts : List Template) (counters : List Counter) : Option Nat :=
  if a.count = 0 ∨ 48 < a.count then some 0
  else
    match a.separations with
    | _ :: second :: _ => some second
    | one =>
      (one.find? fun i => i != a.entries.length)
        |>.or (if one.isEmpty != (a.declared == 0) then some 0 else none)
        |>.or ((a.entries.findIdx? fun e => e.kind != 1 && !usableTemplate ts counters e.template).map (· + 1))
        |>.or (overLong 384 1 0 a.entries)

/-- Check 7 of R80: a location at which the plate of an admission to a station may not lie. -/
def Floor.wrongPlace (fl : Floor) (station : Nat) : Location → Bool
  | .crane _ => true
  | .station s => s != station || (fl.station? s).any fun st => st.state == .clearing
  | _ => false

/-- Check 8 of R80: the first limit of the bed that a plate exceeds, in the order L, W, T (section 10.3). -/
def StationCfg.exceeded (c : StationCfg) (p : Plate) : Option Nat :=
  if c.bedL < p.len then some c.bedL
  else if c.bedW < p.wid then some c.bedW
  else if c.maxT < p.thickness then some c.maxT
  else none

/-- The detail of check 9: the sum, or a free value where four bytes cannot hold it (notes/assumptions 24). -/
def sumDetail (n : Nat) : Detail := .number (if n < 4294967296 then n else Config.wideSum n)

/-- Check 10 of R80: the declared remnant against the plate and the minima of R16. -/
def Admission.remnantFault (a : Admission) (limits : Option Limits) (p : Plate) : Option (RefusalCode × Detail) :=
  if a.declared = 0 then none
  else if p.len < a.len then some (.remnantOutsidePlate, .number a.len)
  else if p.wid < a.wid then some (.remnantOutsidePlate, .number a.wid)
  else if min a.len a.wid < (limits.map Limits.minSide).getD 0 then
    some (.remnantBelowMinimum, .number (min a.len a.wid))
  else if a.remnantArea < (limits.map Limits.minArea).getD 0 * 10000 then
    some (.remnantBelowMinimum, .number a.remnantArea)
  else none

/-- Check 11 of R80: no configured crane lifts a plate that is not on the job's station already. -/
def Hall.unliftable (h : Hall) (station : Nat) (p : Plate) : Bool :=
  p.location != .station station && !(h.cfg.cranes.any fun c => h.ctx.lifts c p.mass p.thickness p.grade)

/-- Checks 6 to 11 of R80 on a present plate. -/
def Hall.plateFault (h : Hall) (a : Admission) (c : StationCfg) (p : Plate) : Option (RefusalCode × Detail) :=
  if p.hold ≠ .free then some (.notFree, p.hold.detail)
  else if h.fl.wrongPlace a.station p.location then some (.wrongLocation, p.location.detail)
  else
    match c.exceeded p with
    | some limit => some (.plateTooLarge, .number limit)
    | none =>
      if p.area < a.areaSum then some (.areaExceedsPlate, sumDetail a.areaSum)
      else
        (a.remnantFault h.cfg.limits p).or
          (if h.unliftable a.station p then some (.notLiftable, .number p.mass) else none)

/-- The remnant declaration that a job record holds (R81). -/
def Admission.remnant (a : Admission) (cfg : Tables) (p : Plate) : Option RemnantDecl :=
  if a.declared = 0 then none
  else
    some ⟨a.len, a.wid, notchOf a.corner a.nl a.nw, a.remnantArea,
      massOf a.remnantArea p.thickness (cfg.density p.grade)⟩

/-- The job record that an admission creates (R81). -/
def Admission.record (a : Admission) (h : Hall) (p : Plate) : Job :=
  { id := a.job, station := a.station, plate := p.id, area := p.area, thickness := p.thickness, grade := p.grade,
    mass := p.mass, nest := a.nest, policy := if a.policy = 0 then .stop else .skip, expedite := a.expedite == 1,
    timer := Timer.start h.sup.state a.code, entries := a.entries.map entryOf, remnant := a.remnant h.cfg p,
    state := .queued, stagingTag := none, cancelPending := false, firstFailure := none, closeOut := none,
    admittedAt := h.sup.clock }

/-- An accepted admission (R81): the job at the tail of its queue, the plate RESERVED, the ADMITTED notice, and the
examination of the queue. -/
def Work.enterJob (x : Ctx) (j : Job) (w : Work) : Work :=
  let w := { w with fl := { w.fl with jobs := w.fl.jobs ++ [j] } }
  ((w.setHold j.plate (.reserved j.id)).noteJob x j.id .admitted none none).wantExamine

/-- ADMIT_JOB (R80, R81), its checks in order. -/
def Hall.admitJob (a : Admission) (h : Hall) : Answer :=
  h.whenIn workingStates <| h.checked a.tests <|
    if (h.fl.job? a.job).isSome then h.refuse .duplicate (.job a.job)
    else
      match h.cfg.station? a.station with
      | none => h.refuse .unknownItem (.station a.station)
      | some c =>
        if 4 ≤ (h.fl.queue a.station).length then h.refuse .full (.station a.station)
        else
          match a.badList h.templates h.fl.counters with
          | some i => h.refuse .badList (.entry i)
          | none =>
            match h.fl.plate? a.plate with
            | none => h.refuse .unknownItem (.plate a.plate)
            | some p =>
              match h.plateFault a c p with
              | some (code, d) => h.refuse code d
              | none =>
                let j := a.record h p
                h.acceptWith
                  (enc2 j.id ++ enc1 ((h.fl.queue a.station).length + 1) ++ enc4 p.area ++ enc4 p.mass
                    ++ encOpt4 (j.remnant.map RemnantDecl.area) ++ encOpt4 (j.remnant.map RemnantDecl.mass))
                  fun x w => w.enterJob x j

/-- ADMIT_JOB. -/
def execAdmitJob (tag job station plate nest policy expedite code count declared len wid corner nl nw : Nat)
    (entries : List RawEntry) (s : State) : Host.Outcome State Fault Refusal :=
  .next (s.serveHall
    (.admitJob tag job station plate nest policy expedite code count declared len wid corner nl nw entries) tag
    (Hall.admitJob
      ⟨job, station, plate, nest, policy, expedite, code, count, declared, len, wid, corner, nl, nw, entries⟩))

/-! ## Reading jobs (R82) -/

/-- READ_JOB (R82). -/
def Hall.readJob (job : Nat) (h : Hall) : Answer :=
  match h.fl.job? job with
  | none => h.refuse .unknownItem .none
  | some j => h.accept (encJob h.sup.state j)

/-- READ_JOB. -/
def execReadJob (tag job : Nat) (s : State) : Host.Outcome State Fault Refusal :=
  .next (s.serveHall (.readJob tag job) tag (Hall.readJob job))

/-- READ_QUEUE (R82): the ids of a station's queue in order, each with its state. -/
def Hall.readQueue (station : Nat) (h : Hall) : Answer :=
  match h.cfg.station? station with
  | none => h.refuse .unknownItem .none
  | some _ => h.accept (encList (fun j : Job => enc2 j.id ++ enc1 j.state.code) (h.fl.queue station))

/-- READ_QUEUE. -/
def execReadQueue (tag station : Nat) (s : State) : Host.Outcome State Fault Refusal :=
  .next (s.serveHall (.readQueue tag station) tag (Hall.readQueue station))

/-! ## Cancellation (R89) -/

/-- The reply byte of a cancellation: done 0, deferred 1 (notes/assumptions 12). -/
def cancelReply (deferred : Bool) : List Byte := encBool deferred

/-- A job that has not become ACTIVE is cancelled at once: its plate FREE where it lies, the job closed (R89). -/
def Work.cancelNow (x : Ctx) (j : Job) (w : Work) : Work := (w.freePlate j.plate).closeJob x j.id .cancelled none

/-- A cancellation deferred until the staging move ends (R89, R90). -/
def Work.deferCancel (x : Ctx) (j : Job) (w : Work) : Work :=
  (w.onJob j.id fun k => { k with cancelPending := true }).noteJob x j.id .cancelDeferred none none

/-- CANCEL_JOB on a present job, by its state (R89); a cancellation that is pending already is accepted deferred, whatever
the staging move's state, and changes nothing. -/
def Hall.cancelPresent (j : Job) (h : Hall) : Answer :=
  match j.state with
  | .queued | .ready => h.acceptWith (cancelReply false) fun x w => w.cancelNow x j
  | .staging =>
    if j.cancelPending then h.accept (cancelReply true)
    else
      match (j.stagingTag.bind h.fl.move?).filter fun m => m.state == MoveState.waiting with
      | some m => h.acceptWith (cancelReply false) fun x w => (w.deleteMove x m.tag).cancelNow x j
      | none => h.acceptWith (cancelReply true) fun x w => w.deferCancel x j
  | .active =>
    match h.fl.station? j.station with
    | some st =>
      if st.state = .held then h.acceptWith (cancelReply false) fun x w => w.endJob x j.id .cancelled
      else h.refuse .active st.state.detail
    | none => h.refuse .active .none
  | .closing => h.refuse .closing (stepDetail j.step?)

/-- CANCEL_JOB (R89). -/
def Hall.cancelJob (job : Nat) (h : Hall) : Answer :=
  h.whenIn workingStates <|
    match h.fl.job? job with
    | none => h.refuse .unknownItem .none
    | some j => h.cancelPresent j

/-- CANCEL_JOB. -/
def execCancelJob (tag job : Nat) (s : State) : Host.Outcome State Fault Refusal :=
  .next (s.serveHall (.cancelJob tag job) tag (Hall.cancelJob job))

/-! ## Close-out (R95, R98) -/

/-- The tag of a move that is no longer WAITING: it cannot be deleted. -/
def Floor.inHands (fl : Floor) (tag : Option Nat) : Option Nat :=
  ((tag.bind fl.move?).filter Move.inFlight).map Move.tag

/-- A move that is still WAITING deleted. -/
def Work.dropWaiting (x : Ctx) (tag : Option Nat) (w : Work) : Work :=
  match tag with
  | some t => w.deleteMove x t
  | none => w

/-- A remnant given up (R95, steps 1-5). -/
def Work.scrapRemnant (x : Ctx) (j : Job) (c : CloseOut) (remnant : Nat) (w : Work) : Work :=
  let w := (w.dropWaiting x c.storeTag).deletePlate remnant
  let w := w.onCloseOut j.id fun c => { c with scrapped := true, remnant := none }
  (w.setCond j.station .none).beginSkeleton x j.id

/-- The remnant of a close-out at STORE that lies on the station's bed. -/
def Floor.bedRemnant (fl : Floor) (station : Nat) (c : CloseOut) : Option Nat :=
  c.remnant.filter fun r => c.step == .store && (fl.station? station).any fun st => st.bed == some r

/-- SCRAP_REMNANT (R95). -/
def Hall.scrapRemnant (station : Nat) (h : Hall) : Answer :=
  h.whenIn workingStates <|
    match h.cfg.station? station with
    | none => h.refuse .unknownItem .none
    | some _ =>
      match h.fl.leadJob station with
      | none => h.refuse .notAccepted (stepDetail none)
      | some j =>
        match j.closeOut with
        | none => h.refuse .notAccepted (stepDetail none)
        | some c =>
          match h.fl.bedRemnant station c with
          | none => h.refuse .notAccepted (stepDetail (some c.step))
          | some r =>
            match h.fl.inHands c.storeTag with
            | some t => h.refuse .inMotion (.move t)
            | none => h.acceptWith (enc2 r) fun x w => w.scrapRemnant x j c r

/-- SCRAP_REMNANT. -/
def execScrapRemnant (tag station : Nat) (s : State) : Host.Outcome State Fault Refusal :=
  .next (s.serveHall (.scrapRemnant tag station) tag (Hall.scrapRemnant station))

/-- A skeleton removed by other means (R98): END follows at the same event. -/
def Work.skeletonManual (x : Ctx) (j : Job) (c : CloseOut) (w : Work) : Work :=
  let w := w.dropWaiting x c.skelTag
  let w := w.onCloseOut j.id fun c => { c with skelTag := none, manual := true }
  w.closeOutEnd x j.id

/-- SKELETON_MANUAL (R98). -/
def Hall.skeletonManual (station : Nat) (h : Hall) : Answer :=
  h.whenIn workingStates <|
    match h.cfg.station? station with
    | none => h.refuse .unknownItem .none
    | some _ =>
      match h.fl.leadJob station with
      | none => h.refuse .notAccepted (stepDetail none)
      | some j =>
        match j.closeOut with
        | none => h.refuse .notAccepted (stepDetail none)
        | some c =>
          if c.step = .skeleton then
            match h.fl.inHands c.skelTag with
            | some t => h.refuse .inMotion (.move t)
            | none => h.acceptWith [] fun x w => w.skeletonManual x j c
          else h.refuse .notAccepted (stepDetail (some c.step))

/-- SKELETON_MANUAL. -/
def execSkeletonManual (tag station : Nat) (s : State) : Host.Outcome State Fault Refusal :=
  .next (s.serveHall (.skeletonManual tag station) tag (Hall.skeletonManual station))

end Sys2Proof.Machine
end

