-- ==== Sys2Proof/Machine/MoveCommands.lean ====
section
/-! DEFINITION. The requests of the Crane Dispatcher (chapter 6): SUBMIT_MOVE, CANCEL_MOVE, READ_MOVE, READ_MOVES,
READ_CRANE, RESTORE_CRANE and RUNWAY_RESUME; and READ_NODE of the Hall Line Master (R148). -/
namespace Sys2Proof.Machine

/-! ## SUBMIT_MOVE (R109) -/

/-- What SUBMIT_MOVE carries, as its body gives it. -/
structure Submission where
  move       : Nat
  kind       : Nat
  plate      : Nat
  dropKind   : Nat
  dropFirst  : Nat
  dropSecond : Nat
  expedite   : Nat
  wait       : Nat

/-- The drop that a submission names. -/
def Submission.drop (q : Submission) : Option Place := dropOf q.dropKind q.dropFirst q.dropSecond

/-- The drop is of a kind that the move kind allows, and is not the plate's present place (R109 check 1). -/
def Submission.dropOk (q : Submission) (fl : Floor) : Bool :=
  (hostKindOf q.kind).any (fun k => q.drop.any (dropAllowed k))
    && !((fl.plate? q.plate).any fun p => p.location.place.isSome && p.location.place == q.drop)

/-- The tests of R109 check 1, in the order in which R109 names the fields, the drop as one field (R175); a kind that no
host move has leaves the drop untested. -/
def Submission.tests (q : Submission) (fl : Floor) : List Bool :=
  [decide (q.move ≤ 15), (hostKindOf q.kind).isSome, true, q.dropOk fl, isYesNo q.expedite, true]

/-- The drop bay, or the drop rack and slot, is defined (R109 check 3); the scrap point always is. -/
def Floor.defined (fl : Floor) : Place → Bool
  | .bay b => (fl.bay? b).isSome
  | .slot r n => (fl.slot? r n).isSome
  | _ => true

/-- The location is of the kind that a host move needs (R109 check 6). -/
def locationAllowed : MoveKind → Location → Bool
  | .rackTransfer, .rack _ _ => true
  | .bayTransfer, .bay _ _ => true
  | .remnantScrap, .rack _ _ => true
  | .remnantScrap, .bay _ _ => true
  | _, _ => false

/-- The limit of a slot drop that a plate exceeds (R109 check 7). -/
def Tables.slotExceeded (cfg : Tables) (p : Plate) : Place → Option Nat
  | .slot r _ => (cfg.rack? r).bind fun c => c.exceeded p.len p.wid p.mass
  | _ => none

/-- The move record of an accepted submission (R109). -/
def Submission.record (q : Submission) (h : Hall) (kind : MoveKind) (drop : Place) (p : Plate) : Move :=
  { tag := q.move, origin := .host, kind, load := .plate p.id, pickup := p.location.place, drop,
    expedite := q.expedite == 1, wait := Timer.start h.sup.state q.wait, submitted := h.sup.clock, crane := none,
    state := .waiting, causedYield := none, waitingFor := none, expired := false }

/-- Checks 3 to 8 of R109 on a plate, with the first that fails. -/
def Hall.moveFault (h : Hall) (m : Move) (p : Plate) : Option (RefusalCode × Detail) :=
  match h.fl.loadMove p.id with
  | some k => some (.inUse, .move k.tag)
  | none =>
    if !holdSubmits m.kind p.hold then some (.notFree, .none)
    else if !locationAllowed m.kind p.location then some (.wrongLocation, .none)
    else
      match h.cfg.slotExceeded p m.drop with
      | some limit => some (.plateTooLarge, .number limit)
      | none =>
        if h.cfg.cranes.any fun c => h.ctx.craneReaches h.fl c m && h.ctx.craneLifts h.fl c m then none
        else some (.notLiftable, .none)

/-- A host move enters the queue (R109). -/
def Work.submit (m : Move) (w : Work) : Work :=
  ({ w with fl := { w.fl with moves := w.fl.moves ++ [m] } } : Work).wantScan

/-- SUBMIT_MOVE (R109), its checks in order. -/
def Hall.submitMove (q : Submission) (h : Hall) : Answer :=
  h.whenIn workingStates <| h.checked (q.tests h.fl) <|
    if (h.fl.move? q.move).isSome then h.refuse .tagInUse .none
    else
      match hostKindOf q.kind, q.drop, h.fl.plate? q.plate with
      | some kind, some drop, some p =>
        if !h.fl.defined drop then h.refuse .unknownItem .none
        else
          let m := q.record h kind drop p
          match h.moveFault m p with
          | some (code, d) => h.refuse code d
          | none => h.acceptWith (enc1 q.move) fun _ w => w.submit m
      | _, _, _ => h.refuse .unknownItem .none

/-- SUBMIT_MOVE. -/
def execSubmitMove (tag move kind plate dropKind dropFirst dropSecond expedite wait : Nat) (s : State) :
    Host.Outcome State Fault Refusal :=
  .next (s.serveHall (.submitMove tag move kind plate dropKind dropFirst dropSecond expedite wait) tag
    (Hall.submitMove ⟨move, kind, plate, dropKind, dropFirst, dropSecond, expedite, wait⟩))

/-! ## CANCEL_MOVE (R110) -/

/-- A BOUND host move withdrawn: unbound, and deleted unless its expired wait has ended it (R110, R115). -/
def Work.withdrawBound (x : Ctx) (t : Nat) (w : Work) : Work := (w.unbind x t).deleteMove x t

/-- CANCEL_MOVE on a present host move, by its state (R110). -/
def Hall.cancelHost (m : Move) (h : Hall) : Answer :=
  match m.state with
  | .waiting => h.acceptWith [] fun x w => w.deleteMove x m.tag
  | .bound => h.acceptWith [] fun x w => w.withdrawBound x m.tag
  | s => h.refuse .inMotion s.detail

/-- CANCEL_MOVE (R110). -/
def Hall.cancelMove (move : Nat) (h : Hall) : Answer :=
  h.whenIn workingStates <| h.checked [decide (move ≤ 31)] <|
    match h.fl.move? move with
    | none => h.refuse .unknownItem .none
    | some m =>
      match m.origin with
      | .job _ => h.refuse .jobOwned .none
      | .yield => h.refuse .inMotion .none
      | .host => h.cancelHost m

/-- CANCEL_MOVE. -/
def execCancelMove (tag move : Nat) (s : State) : Host.Outcome State Fault Refusal :=
  .next (s.serveHall (.cancelMove tag move) tag (Hall.cancelMove move))

/-! ## Reading moves and cranes (R112, R132) -/

/-- READ_MOVE (R112): the move record and the reasons set. -/
def Hall.readMove (move : Nat) (h : Hall) : Answer :=
  h.checked [decide (move ≤ 31)] <|
    match h.fl.move? move with
    | none => h.refuse .unknownItem .none
    | some m =>
      h.accept (m.encode none (m.pickup.bind h.cfg.placeAt) ((h.cfg.placeAt m.drop).getD 0)
        ++ enc2 (bitsOf (h.ctx.reasons h.fl m)))

/-- READ_MOVE. -/
def execReadMove (tag move : Nat) (s : State) : Host.Outcome State Fault Refusal :=
  .next (s.serveHall (.readMove tag move) tag (Hall.readMove move))

/-- READ_MOVES (R112, section 10.3): the tags in submission order, each with its kind, state and crane. -/
def Hall.readMoves (h : Hall) : Answer :=
  h.accept (encList (fun m : Move => enc1 m.tag ++ enc1 m.kind.code ++ enc1 m.state.code ++ encOpt1 m.crane) h.fl.moves)

/-- READ_MOVES. -/
def execReadMoves (tag : Nat) (s : State) : Host.Outcome State Fault Refusal :=
  .next (s.serveHall (.readMoves tag) tag Hall.readMoves)

/-- READ_CRANE (R132). -/
def Hall.readCrane (crane : Nat) (h : Hall) : Answer :=
  match h.cfg.crane? crane, h.fl.crane? crane with
  | some c, some k => h.accept (encCrane c k h.fl.runwayStopped)
  | _, _ => h.refuse .unknownItem .none

/-- READ_CRANE. -/
def execReadCrane (tag crane : Nat) (s : State) : Host.Outcome State Fault Refusal :=
  .next (s.serveHall (.readCrane tag crane) tag (Hall.readCrane crane))

/-! ## RESTORE_CRANE and RUNWAY_RESUME (R130, R122) -/

/-- What RESTORE_CRANE refuses, in the order of R130. DESIGN CHOICE (notes/assumptions 78): the fault code goes as a number,
detail kind 5. -/
def Hall.restoreFault (h : Hall) (k : Crane) : Option (RefusalCode × Detail) :=
  if k.health = .normal ∨ k.health = .offline then some (.notAccepted, k.health.detail)
  else if !k.up then some (.notAccepted, .enumerated 24 (linkCode k.up))
  else
    match (if k.health = .faulted ∧ ¬ k.cleared = true then k.fault else none) with
    | some f => some (.notAccepted, .number f)
    | none => if h.ctx.within k then none else some (.breachPersists, .none)

/-- RESTORE_CRANE accepted (R130): the fault removed, the good count 0, the crane NORMAL; the next position is tested
against the runway alone (R104). -/
def Work.restore (x : Ctx) (c : Nat) (w : Work) : Work :=
  (w.onCrane c fun k => { k with fault := none, cleared := false, good := 0, fresh := true }).craneRestored x c

/-- RESTORE_CRANE (R130). -/
def Hall.restoreCrane (crane : Nat) (h : Hall) : Answer :=
  h.whenIn workingStates <|
    match h.fl.crane? crane with
    | none => h.refuse .unknownItem .none
    | some k =>
      match h.restoreFault k with
      | some (code, d) => h.refuse code d
      | none => h.acceptWith [] fun x w => w.restore x crane

/-- RESTORE_CRANE. -/
def execRestoreCrane (tag crane : Nat) (s : State) : Host.Outcome State Fault Refusal :=
  .next (s.serveHall (.restoreCrane tag crane) tag (Hall.restoreCrane crane))

/-- RUNWAY_RESUME accepted (R122, steps 1-5). The one CRANE notice shows the lowest-numbered crane (notes/assumptions
18). -/
def Work.resumeRunway (x : Ctx) (w : Work) : Work :=
  let w : Work := { w with fl := { w.fl with runwayStopped := false } }
  let w := (w.clearStops x true).unsuspendAll x [.breach]
  (match w.fl.cranes with
    | k :: _ => w.noteCrane x k.num .runwayResumed
    | [] => w).wantScan

/-- RUNWAY_RESUME (R122). -/
def Hall.runwayResume (h : Hall) : Answer :=
  h.whenIn [.run, .holding, .held] <|
    if h.fl.runwayStopped then
      match h.fl.cranes.find? fun k => !h.ctx.within k with
      | some k => h.refuse .breachPersists (.crane k.num)
      | none => h.acceptWith [] fun x w => w.resumeRunway x
    else h.accept []

/-- RUNWAY_RESUME. -/
def execRunwayResume (tag : Nat) (s : State) : Host.Outcome State Fault Refusal :=
  .next (s.serveHall (.runwayResume tag) tag Hall.runwayResume)

/-! ## READ_NODE (R148) -/

/-- READ_NODE (R148). -/
def Hall.readNode (address : Nat) (h : Hall) : Answer :=
  h.whenIn [.ready, .run, .holding, .held, .frozen] <|
    match h.fl.node? address with
    | none => h.refuse .unknownItem .none
    | some n => h.accept (encNode h.cfg.line h.fl.line (h.cfg.pollAt address) n)

/-- READ_NODE. -/
def execReadNode (tag address : Nat) (s : State) : Host.Outcome State Fault Refusal :=
  .next (s.serveHall (.readNode tag address) tag (Hall.readNode address))

end Sys2Proof.Machine
end

