-- ==== Sys2Proof/Machine/EventCommands.lean ====
section
/-! DEFINITION. The events that are no requests: the host link's bytes and frames (R167-R170) and the frames R169 refuses,
the timer expiries (R40, R56, R111) and the events of the hall line (R135, R138, R147). An event that cannot occur in the
state it meets changes nothing (notes/assumptions 4). -/
namespace Sys2Proof.Machine

/-! ## Host link -/

/-- Characters received on the host link: frames completed or discarded, and the transmitter goes on (R167, R168, R170). -/
def State.hear (chars : List HostChar) (s : State) : State := { s with link := (s.link.receiveAll chars).pump }

/-- HOST_FRAME_RECEIVED: the characters that complete a frame with a correct CRC (R168). -/
def execHostFrameReceived (chars : List HostChar) (s : State) : Host.Outcome State Fault Refusal := .next (s.hear chars)

/-- HOST_FRAME_DISCARDED: the characters that end in a discarded frame (R167). -/
def execHostFrameDiscarded (chars : List HostChar) (s : State) : Host.Outcome State Fault Refusal := .next (s.hear chars)

/-- HOST_BYTE_GAP_TIMEOUT: more than 10 ms between two bytes of a frame (R167). While the receiver hunts there is no frame
in assembly, and nothing changes. -/
def execHostByteGapTimeout (s : State) : Host.Outcome State Fault Refusal :=
  .next (if s.link.rx.isEmpty then s else { s with link := s.link.abort.pump })

/-- HOST_FRAME_SENT: the last byte of the frame being sent has gone (R168, R170). -/
def execHostFrameSent (s : State) : Host.Outcome State Fault Refusal := .next { s with link := s.link.sent }

/-- UNKNOWN_REQUEST: a frame that R169 refuses itself. A frame that is a request is none of these, and nothing changes. -/
def execUnknownRequest (code tag : Nat) (body : List Byte) (s : State) : Host.Outcome State Fault Refusal :=
  .next (match decodeRequest code tag body with
    | .error e => s.serveFault code tag body e
    | .ok _ => s)

/-! ## Timer expiries -/

/-- A job whose reservation has run out lapses (R40). -/
def Work.lapse (x : Ctx) (j : Job) (w : Work) : Work :=
  let w := if (w.fl.plate? j.plate).any fun p => p.hold == .reserved j.id then w.freePlate j.plate else w
  w.closeJob x j.id .lapsed none

/-- RESERVATION_EXPIRED (R40). -/
def execReservationExpired (job : Nat) (s : State) : Host.Outcome State Fault Refusal :=
  .next (match (s.hall.fl.job? job).filter fun j => j.timer.canExpire with
    | some j => s.event fun h => h.onFloor [] fun x w => w.lapse x j
    | none => s)

/-- PARK_TIMER_EXPIRED (R56). -/
def execParkTimerExpired (station : Nat) (s : State) : Host.Outcome State Fault Refusal :=
  .next (match (s.hall.fl.station? station).filter fun st => st.park.canExpire with
    | some _ => s.event fun h => h.onFloor [] fun x w => w.parkExpired x station
    | none => s)

/-- The wait of a move has run out (R111): a WAITING move fails WAIT_EXPIRED, a BOUND one is marked. The timer is STOPPED
(R20). -/
def Work.waitExpired (x : Ctx) (m : Move) (w : Work) : Work :=
  if m.state = .waiting then w.failMove x { m with wait := m.wait.stop } .waitExpired
  else w.onMove m.tag fun k => { k with wait := k.wait.stop, expired := true }

/-- MOVE_WAIT_EXPIRED (R111): the timer runs only while the move is WAITING or BOUND. -/
def execMoveWaitExpired (move : Nat) (s : State) : Host.Outcome State Fault Refusal :=
  .next (match (s.hall.fl.move? move).filter fun m => m.wait.canExpire && (m.state == .waiting || m.state == .bound) with
    | some m => s.event fun h => h.onFloor [] fun x w => w.waitExpired x m
    | none => s)

/-! ## Hall line -/

/-- ROUND_GAP_EXPIRED: the round counter rises, from 63 to 0, and the next round begins (R138). -/
def execRoundGapExpired (s : State) : Host.Outcome State Fault Refusal :=
  .next (if s.hall.fl.line.gap then
      s.event fun h => h.onFloor [] fun x w => w.beginRound x ((w.fl.line.round + 1) % 64)
    else s)

/-- The line changed by an event that tells no owner. -/
def State.onLine (f : Line → Line) (s : State) : State :=
  { s with hall := { s.hall with fl := { s.hall.fl with line := f s.hall.fl.line } } }

/-- LINE_FRAME_SENT: the last character of a visit's frame has gone, and the report is awaited (R135). -/
def execLineFrameSent (s : State) : Host.Outcome State Fault Refusal :=
  .next (match s.hall.fl.line.visit with
    | some v => s.onLine fun l => { l with visit := some { v with awaiting := true } }
    | none => s)

/-- The visit whose report is awaited. -/
def Line.awaited (l : Line) : Option Visit := l.visit.filter Visit.awaiting

/-- REPLY_WINDOW_EXPIRED: no report in time, a miss; the visit ends (R135, R145). -/
def execReplyWindowExpired (s : State) : Host.Outcome State Fault Refusal :=
  .next (match s.hall.fl.line.awaited with
    | some v => s.event fun h => h.onFloorThen [] (fun x w => w.miss x v.address) fun x w => w.endVisit x
    | none => s)

/-- REPORT_RECEIVED: a report completes and is judged, and the visit ends (R135, R146). Characters received while no
report is awaited are discarded (R133). -/
def execReportReceived (chars : List LineChar) (s : State) : Host.Outcome State Fault Refusal :=
  .next (match s.hall.fl.line.awaited with
    | some v => s.event fun h => h.onFloorThen [] (fun x w => w.takeReport x v chars) fun x w => w.endVisit x
    | none => s)

/-- STOP_ALL_SENT: the broadcast has gone, broadcast pending is cleared, and its reply window begins (R147). -/
def execStopAllSent (s : State) : Host.Outcome State Fault Refusal :=
  .next (if s.hall.fl.line.broadcast = .sending then
      s.onLine fun l => { l with broadcast := .window, broadcastPending := false }
    else s)

/-- The line after the broadcast's window (R147): a broadcast pending anew goes at once; a round gap that still runs goes
on; else polling goes on with the next entry due. DESIGN CHOICE (notes/assumptions 71): where the broadcast followed the last
visit of a round, the round gap starts here, after the window. -/
def Work.afterBroadcast (x : Ctx) (w : Work) : Work :=
  let w := w.onLine fun l => { l with broadcast := .none }
  if w.fl.line.broadcastPending then w.lineFree x
  else if w.fl.line.gap then w
  else nextVisit x w.fl.line.due w

/-- BROADCAST_WINDOW_EXPIRED (R147). -/
def execBroadcastWindowExpired (s : State) : Host.Outcome State Fault Refusal :=
  .next (if s.hall.fl.line.broadcast = .window then s.event fun h => h.onFloor [] fun x w => w.afterBroadcast x
    else s)

end Sys2Proof.Machine
end

