-- ==== Sys2Proof/Machine/Dispatch.lean ====
section
/-! DEFINITION. The meaning of each command, one arm per row of spec/opcode_table.json. -/
namespace Sys2Proof.Machine

def exec (i : Instr) (s : State) : Host.Outcome State Fault Refusal :=
  match i with
  | .reset rateHigh stopHeld => Sys2Proof.Machine.execReset rateHigh stopHeld s
  | .stopAsserted => Sys2Proof.Machine.execStopAsserted s
  | .stopReleased => Sys2Proof.Machine.execStopReleased s
  | .hostFrameReceived chars => Sys2Proof.Machine.execHostFrameReceived chars s
  | .hostFrameDiscarded chars => Sys2Proof.Machine.execHostFrameDiscarded chars s
  | .hostByteGapTimeout => Sys2Proof.Machine.execHostByteGapTimeout s
  | .hostFrameSent => Sys2Proof.Machine.execHostFrameSent s
  | .unknownRequest code tag body => Sys2Proof.Machine.execUnknownRequest code tag body s
  | .setGrade tag index name density rotation factor => Sys2Proof.Machine.execSetGrade tag index name density rotation factor s
  | .setRunway tag length separation scrap bayCount bays => Sys2Proof.Machine.execSetRunway tag length separation scrap bayCount bays s
  | .setLimits tag jump restore pct absmin minSide minArea => Sys2Proof.Machine.execSetLimits tag jump restore pct absmin minSide minArea s
  | .setStation tag station address bedL bedW maxT position wearLimit warnLevel parkCode => Sys2Proof.Machine.execSetStation tag station address bedL bedW maxT position wearLimit warnLevel parkCode s
  | .setCrane tag crane address swl tare cm tfull tmin halfSpan limitMin limitMax => Sys2Proof.Machine.execSetCrane tag crane address swl tare cm tfull tmin halfSpan limitMin limitMax s
  | .setRack tag rack address slots maxL maxW maxMass position => Sys2Proof.Machine.execSetRack tag rack address slots maxL maxW maxMass position s
  | .setLine tag rate window missLimit roundGap => Sys2Proof.Machine.execSetLine tag rate window missLimit roundGap s
  | .setPoll tag position address kind repetition base => Sys2Proof.Machine.execSetPoll tag position address kind repetition base s
  | .commitSetup tag => Sys2Proof.Machine.execCommitSetup tag s
  | .start tag => Sys2Proof.Machine.execStart tag s
  | .hold tag => Sys2Proof.Machine.execHold tag s
  | .resume tag => Sys2Proof.Machine.execResume tag s
  | .freeze tag => Sys2Proof.Machine.execFreeze tag s
  | .clearFreeze tag => Sys2Proof.Machine.execClearFreeze tag s
  | .reconfigure tag => Sys2Proof.Machine.execReconfigure tag s
  | .clearRegister tag => Sys2Proof.Machine.execClearRegister tag s
  | .readHall tag => Sys2Proof.Machine.execReadHall tag s
  | .getStatus tag => Sys2Proof.Machine.execGetStatus tag s
  | .identify tag => Sys2Proof.Machine.execIdentify tag s
  | .setNotices tag enable disable => Sys2Proof.Machine.execSetNotices tag enable disable s
  | .registerPlate tag bay grade thickness heat len wid corner nl nw => Sys2Proof.Machine.execRegisterPlate tag bay grade thickness heat len wid corner nl nw s
  | .readPlate tag plate => Sys2Proof.Machine.execReadPlate tag plate s
  | .releasePlate tag plate => Sys2Proof.Machine.execReleasePlate tag plate s
  | .removePlate tag plate => Sys2Proof.Machine.execRemovePlate tag plate s
  | .placeRemnant tag rack slot grade thickness heat len wid corner nl nw => Sys2Proof.Machine.execPlaceRemnant tag rack slot grade thickness heat len wid corner nl nw s
  | .acceptEmpty tag rack slot => Sys2Proof.Machine.execAcceptEmpty tag rack slot s
  | .recheck tag rack slot => Sys2Proof.Machine.execRecheck tag rack slot s
  | .acceptObject tag rack slot action => Sys2Proof.Machine.execAcceptObject tag rack slot action s
  | .readRack tag rack => Sys2Proof.Machine.execReadRack tag rack s
  | .findStock tag grade thickness needL needW rotate count => Sys2Proof.Machine.execFindStock tag grade thickness needL needW rotate count s
  | .stationHold tag station => Sys2Proof.Machine.execStationHold tag station s
  | .stationResume tag station => Sys2Proof.Machine.execStationResume tag station s
  | .consumablesChanged tag station => Sys2Proof.Machine.execConsumablesChanged tag station s
  | .readStation tag station => Sys2Proof.Machine.execReadStation tag station s
  | .defineTemplate tag template fieldCount fields => Sys2Proof.Machine.execDefineTemplate tag template fieldCount fields s
  | .readTemplate tag template => Sys2Proof.Machine.execReadTemplate tag template s
  | .setCounter tag counter width next => Sys2Proof.Machine.execSetCounter tag counter width next s
  | .readCounter tag counter => Sys2Proof.Machine.execReadCounter tag counter s
  | .admitJob tag job station plate nest policy expedite code count declared len wid corner nl nw entries => Sys2Proof.Machine.execAdmitJob tag job station plate nest policy expedite code count declared len wid corner nl nw entries s
  | .readJob tag job => Sys2Proof.Machine.execReadJob tag job s
  | .readQueue tag station => Sys2Proof.Machine.execReadQueue tag station s
  | .cancelJob tag job => Sys2Proof.Machine.execCancelJob tag job s
  | .scrapRemnant tag station => Sys2Proof.Machine.execScrapRemnant tag station s
  | .skeletonManual tag station => Sys2Proof.Machine.execSkeletonManual tag station s
  | .submitMove tag move kind plate dropKind dropFirst dropSecond expedite wait => Sys2Proof.Machine.execSubmitMove tag move kind plate dropKind dropFirst dropSecond expedite wait s
  | .cancelMove tag move => Sys2Proof.Machine.execCancelMove tag move s
  | .readMove tag move => Sys2Proof.Machine.execReadMove tag move s
  | .readMoves tag => Sys2Proof.Machine.execReadMoves tag s
  | .readCrane tag crane => Sys2Proof.Machine.execReadCrane tag crane s
  | .restoreCrane tag crane => Sys2Proof.Machine.execRestoreCrane tag crane s
  | .runwayResume tag => Sys2Proof.Machine.execRunwayResume tag s
  | .readNode tag address => Sys2Proof.Machine.execReadNode tag address s
  | .reservationExpired job => Sys2Proof.Machine.execReservationExpired job s
  | .parkTimerExpired station => Sys2Proof.Machine.execParkTimerExpired station s
  | .moveWaitExpired move => Sys2Proof.Machine.execMoveWaitExpired move s
  | .roundGapExpired => Sys2Proof.Machine.execRoundGapExpired s
  | .lineFrameSent => Sys2Proof.Machine.execLineFrameSent s
  | .replyWindowExpired => Sys2Proof.Machine.execReplyWindowExpired s
  | .reportReceived chars => Sys2Proof.Machine.execReportReceived chars s
  | .stopAllSent => Sys2Proof.Machine.execStopAllSent s
  | .broadcastWindowExpired => Sys2Proof.Machine.execBroadcastWindowExpired s

end Sys2Proof.Machine
end

