-- ==== Sys2Proof/Machine/Step.lean ====
section
/-! DEFINITION. One step: the command at the front of the queue, or, with none waiting, one millisecond of the hall clock
(R150) and of the duration timers (R20). -/
namespace Sys2Proof.Machine

/-- The expiries that this millisecond gives, in the order jobs, stations, moves (R20; notes/assumptions 2). -/
def Floor.expiries (fl : Floor) : List Instr :=
  (fl.jobs.filter fun j => j.timer.runsOut).map (fun j => Instr.reservationExpired j.id)
    ++ (fl.stations.filter fun st => st.park.runsOut).map (fun st => Instr.parkTimerExpired st.num)
    ++ (fl.moves.filter fun m => m.wait.runsOut).map (fun m => Instr.moveWaitExpired m.tag)

/-- The duration timers after one millisecond (R20). -/
def Floor.tick (fl : Floor) : Floor :=
  { fl with
    jobs := fl.jobs.map fun j => { j with timer := j.timer.tick }
    stations := fl.stations.map fun st => { st with park := st.park.tick }
    moves := fl.moves.map fun m => { m with wait := m.wait.tick } }

/-- The hall clock after one millisecond: from 4,294,967,295 it goes to 0 (R150). -/
def clockAfter (clock : Nat) : Nat := (clock + 1) % 4294967296

/-- One millisecond with no command waiting: the clock and the timers run, and what expires is queued (notes/assumptions
2). -/
def State.tick (s : State) : State :=
  { s with
    hall := { s.hall with sup := { s.hall.sup with clock := clockAfter s.hall.sup.clock }, fl := s.hall.fl.tick }
    pending := s.hall.fl.expiries }

/-- One step of the part: the command at the front of the queue, on the state with the queue's rest; a millisecond passes
when none waits. -/
def step (s : State) : Host.Outcome State Fault Refusal :=
  match s.pending with
  | c :: rest => exec c { s with pending := rest }
  | [] => .next s.tick

/-- The state with the command that a word spells at the front of its queue. No row of the opcode table gives bits, so no
word spells a command. -/
def State.withFetchWord (s : State) (nbits w : Nat) : State :=
  match decodeTableWord nbits w with
  | some c => { s with pending := c :: s.pending }
  | none => s

end Sys2Proof.Machine
end

