-- ==== Sys2Proof/Machine/Requests.lean ====
section
/-! DEFINITION. The other direction of `decodeRequest`: the body that carries a request (R175, section 10.3), and the tag
of a request. -/
namespace Sys2Proof.Machine

/-- A template field as a body carries it (notes/assumptions 12). -/
def encRawField (f : RawField) : List Byte :=
  enc1 f.kind ++ (if f.kind = 0 then encText f.text else if f.kind = 6 then enc1 f.counter else [])

/-- A burn list entry as an admission body carries it (section 10.3). -/
def encRawEntry (e : RawEntry) : List Byte :=
  enc1 e.kind ++ encText e.partNo ++ enc1 e.template ++ enc4 e.area ++ enc1 e.pierces

/-- The tag of a request; none for an event, and none for UNKNOWN_REQUEST, whose bytes are no request's. -/
def requestTag : Instr → Option Nat
  | .setGrade tag .. | .setRunway tag .. | .setLimits tag .. | .setStation tag .. | .setCrane tag .. | .setRack tag ..
  | .setLine tag .. | .setPoll tag .. | .commitSetup tag | .start tag | .hold tag | .resume tag | .freeze tag
  | .clearFreeze tag | .reconfigure tag | .clearRegister tag | .readHall tag | .getStatus tag | .identify tag
  | .setNotices tag .. | .registerPlate tag .. | .readPlate tag .. | .releasePlate tag .. | .removePlate tag ..
  | .placeRemnant tag .. | .acceptEmpty tag .. | .recheck tag .. | .acceptObject tag .. | .readRack tag ..
  | .findStock tag .. | .stationHold tag .. | .stationResume tag .. | .consumablesChanged tag .. | .readStation tag ..
  | .defineTemplate tag .. | .readTemplate tag .. | .setCounter tag .. | .readCounter tag .. | .admitJob tag ..
  | .readJob tag .. | .readQueue tag .. | .cancelJob tag .. | .scrapRemnant tag .. | .skeletonManual tag ..
  | .submitMove tag .. | .cancelMove tag .. | .readMove tag .. | .readMoves tag | .readCrane tag .. | .restoreCrane tag ..
  | .runwayResume tag | .readNode tag .. => some tag
  | .reset .. | .stopAsserted | .stopReleased | .hostFrameReceived _ | .hostFrameDiscarded _ | .hostByteGapTimeout
  | .hostFrameSent | .unknownRequest .. | .reservationExpired _ | .parkTimerExpired _ | .moveWaitExpired _
  | .roundGapExpired | .lineFrameSent | .replyWindowExpired | .reportReceived _ | .stopAllSent
  | .broadcastWindowExpired => none

/-- The body of a request: its fields in the order in which the owning rule names them (R175), in the widths that `bodyForm`
reads (notes/assumptions 63 for those that section 10.1 does not name). An event has none. -/
def requestBody : Instr → List Byte
  | .setGrade _ index name density rotation factor =>
      enc1 index ++ encText name ++ enc2 density ++ enc1 rotation ++ enc1 factor
  | .setRunway _ length separation scrap bayCount bays =>
      enc4 length ++ enc4 separation ++ enc4 scrap ++ enc1 bayCount ++ encList enc4 bays
  | .setLimits _ jump restore pct absmin minSide minArea =>
      enc4 jump ++ enc1 restore ++ enc1 pct ++ enc4 absmin ++ enc2 minSide ++ enc4 minArea
  | .setStation _ station address bedL bedW maxT position wearLimit warnLevel parkCode =>
      enc1 station ++ enc1 address ++ enc2 bedL ++ enc2 bedW ++ enc2 maxT ++ enc4 position ++ enc2 wearLimit
        ++ enc2 warnLevel ++ enc1 parkCode
  | .setCrane _ crane address swl tare cm tfull tmin halfSpan limitMin limitMax =>
      enc1 crane ++ enc1 address ++ enc4 swl ++ enc4 tare ++ enc4 cm ++ enc2 tfull ++ enc2 tmin ++ enc4 halfSpan
        ++ enc4 limitMin ++ enc4 limitMax
  | .setRack _ rack address slots maxL maxW maxMass position =>
      enc1 rack ++ enc1 address ++ enc1 slots ++ enc2 maxL ++ enc2 maxW ++ enc4 maxMass ++ enc4 position
  | .setLine _ rate window missLimit roundGap => enc1 rate ++ enc1 window ++ enc1 missLimit ++ enc1 roundGap
  | .setPoll _ position address kind repetition base =>
      enc1 position ++ enc1 address ++ enc1 kind ++ enc1 repetition ++ enc1 base
  | .commitSetup _ => enc1 1
  | .start _ => enc1 2
  | .hold _ => enc1 3
  | .resume _ => enc1 4
  | .freeze _ => enc1 5
  | .clearFreeze _ => enc1 6
  | .reconfigure _ => enc1 7
  | .clearRegister _ => enc1 8
  | .setNotices _ enable disable => encList enc1 enable ++ encList enc1 disable
  | .registerPlate _ bay grade thickness heat len wid corner nl nw =>
      enc1 bay ++ enc1 grade ++ enc2 thickness ++ encText heat ++ enc2 len ++ enc2 wid ++ enc1 corner ++ enc2 nl
        ++ enc2 nw
  | .readPlate _ plate | .releasePlate _ plate | .removePlate _ plate => enc2 plate
  | .placeRemnant _ rack slot grade thickness heat len wid corner nl nw =>
      enc1 rack ++ enc1 slot ++ enc1 grade ++ enc2 thickness ++ encText heat ++ enc2 len ++ enc2 wid ++ enc1 corner
        ++ enc2 nl ++ enc2 nw
  | .acceptEmpty _ rack slot => enc1 rack ++ enc1 slot ++ enc1 1
  | .recheck _ rack slot => enc1 rack ++ enc1 slot ++ enc1 2
  | .acceptObject _ rack slot action => enc1 rack ++ enc1 slot ++ enc1 action
  | .findStock _ grade thickness needL needW rotate count =>
      enc1 grade ++ enc2 thickness ++ enc2 needL ++ enc2 needW ++ enc1 rotate ++ enc1 count
  | .readRack _ n | .stationHold _ n | .stationResume _ n | .consumablesChanged _ n | .readStation _ n
  | .readTemplate _ n | .readCounter _ n | .readQueue _ n | .scrapRemnant _ n | .skeletonManual _ n | .cancelMove _ n
  | .readMove _ n | .readCrane _ n | .restoreCrane _ n | .readNode _ n => enc1 n
  | .defineTemplate _ template fieldCount fields =>
      enc1 template ++ enc1 fieldCount ++ fields.flatMap encRawField
  | .setCounter _ counter width next => enc1 counter ++ enc1 width ++ enc4 next
  | .admitJob _ job station plate nest policy expedite code count declared len wid corner nl nw entries =>
      enc2 job ++ enc1 station ++ enc2 plate ++ enc2 nest ++ enc1 policy ++ enc1 expedite ++ enc1 code ++ enc1 count
        ++ enc1 declared ++ enc2 len ++ enc2 wid ++ enc1 corner ++ enc2 nl ++ enc2 nw ++ entries.flatMap encRawEntry
  | .readJob _ job | .cancelJob _ job => enc2 job
  | .submitMove _ move kind plate dropKind dropFirst dropSecond expedite wait =>
      enc1 move ++ enc1 kind ++ enc2 plate ++ enc1 dropKind ++ enc1 dropFirst ++ enc1 dropSecond ++ enc1 expedite
        ++ enc1 wait
  | _ => []

end Sys2Proof.Machine
end

