-- ==== Sys2Proof/WellFormed.lean ====
section
/-! DEFINITION. Well-formed commands: every operand has a value that its field's encoding admits (section 10.1). -/
namespace Sys2Proof

/-- A one-byte field. -/
def fits1 (n : Nat) : Bool := n < 256
/-- A two-byte field. -/
def fits2 (n : Nat) : Bool := n < 65536
/-- A four-byte field. -/
def fits4 (n : Nat) : Bool := n < 4294967296
/-- A text whose length fits its length byte. -/
def fitsText (t : Text) : Bool := t.length < 256
/-- A request's tag is 1-255 (R166). -/
def tagOk (tag : Nat) : Bool := 0 < tag && tag < 256

/-- A template field carries a text only when its kind is LITERAL (0), a counter only when it is SERIAL (6). -/
def RawField.wellFormed (f : RawField) : Bool :=
  fits1 f.kind && fitsText f.text && fits1 f.counter
    && (f.kind == 0 || f.text == []) && (f.kind == 6 || f.counter == 0)

/-- Every field of a burn list entry fits its encoding. -/
def RawEntry.wellFormed (e : RawEntry) : Bool :=
  fits1 e.kind && fitsText e.partNo && fits1 e.template && fits4 e.area && fits1 e.pierces

/-- A list carried behind a count byte. -/
def fitsList (ok : α → Bool) (l : List α) : Bool := l.length < 256 && l.all ok

/-- The operands of a command are values its encoding admits. -/
def Instr.wellFormed : Instr → Bool
  | .reset _ _ | .stopAsserted | .stopReleased => true
  | .hostFrameReceived cs | .hostFrameDiscarded cs => !cs.isEmpty
  | .hostByteGapTimeout | .hostFrameSent => true
  | .unknownRequest code tag body => fits1 code && fits1 tag && decide (body.length ≤ 1022)
  | .setGrade tag index name density rotation factor =>
      tagOk tag && fits1 index && fitsText name && fits2 density && fits1 rotation && fits1 factor
  | .setRunway tag length separation scrap bayCount bays =>
      tagOk tag && fits4 length && fits4 separation && fits4 scrap && fits1 bayCount && fitsList fits4 bays
  | .setLimits tag jump restore pct absmin minSide minArea =>
      tagOk tag && fits4 jump && fits1 restore && fits1 pct && fits4 absmin && fits2 minSide && fits4 minArea
  | .setStation tag station address bedL bedW maxT position wearLimit warnLevel parkCode =>
      tagOk tag && fits1 station && fits1 address && fits2 bedL && fits2 bedW && fits2 maxT && fits4 position
        && fits2 wearLimit && fits2 warnLevel && fits1 parkCode
  | .setCrane tag crane address swl tare cm tfull tmin halfSpan limitMin limitMax =>
      tagOk tag && fits1 crane && fits1 address && fits4 swl && fits4 tare && fits4 cm && fits2 tfull && fits2 tmin
        && fits4 halfSpan && fits4 limitMin && fits4 limitMax
  | .setRack tag rack address slots maxL maxW maxMass position =>
      tagOk tag && fits1 rack && fits1 address && fits1 slots && fits2 maxL && fits2 maxW && fits4 maxMass
        && fits4 position
  | .setLine tag rate window missLimit roundGap =>
      tagOk tag && fits1 rate && fits1 window && fits1 missLimit && fits1 roundGap
  | .setPoll tag position address kind repetition base =>
      tagOk tag && fits1 position && fits1 address && fits1 kind && fits1 repetition && fits1 base
  | .commitSetup tag | .start tag | .hold tag | .resume tag | .freeze tag | .clearFreeze tag | .reconfigure tag
  | .clearRegister tag | .readHall tag | .getStatus tag | .identify tag | .readMoves tag | .runwayResume tag =>
      tagOk tag
  | .setNotices tag enable disable => tagOk tag && fitsList fits1 enable && fitsList fits1 disable
  | .registerPlate tag bay grade thickness heat len wid corner nl nw =>
      tagOk tag && fits1 bay && fits1 grade && fits2 thickness && fitsText heat && fits2 len && fits2 wid
        && fits1 corner && fits2 nl && fits2 nw
  | .readPlate tag plate | .releasePlate tag plate | .removePlate tag plate => tagOk tag && fits2 plate
  | .placeRemnant tag rack slot grade thickness heat len wid corner nl nw =>
      tagOk tag && fits1 rack && fits1 slot && fits1 grade && fits2 thickness && fitsText heat && fits2 len
        && fits2 wid && fits1 corner && fits2 nl && fits2 nw
  | .acceptEmpty tag rack slot | .recheck tag rack slot => tagOk tag && fits1 rack && fits1 slot
  | .acceptObject tag rack slot action =>
      tagOk tag && fits1 rack && fits1 slot && fits1 action && action != 1 && action != 2
  | .readRack tag rack => tagOk tag && fits1 rack
  | .findStock tag grade thickness needL needW rotate count =>
      tagOk tag && fits1 grade && fits2 thickness && fits2 needL && fits2 needW && fits1 rotate && fits1 count
  | .stationHold tag station | .stationResume tag station | .consumablesChanged tag station
  | .readStation tag station | .readQueue tag station | .scrapRemnant tag station | .skeletonManual tag station =>
      tagOk tag && fits1 station
  | .defineTemplate tag template fieldCount fields =>
      tagOk tag && fits1 template && fits1 fieldCount && fieldCount == fields.length
        && fields.all RawField.wellFormed
  | .readTemplate tag template => tagOk tag && fits1 template
  | .setCounter tag counter width next => tagOk tag && fits1 counter && fits1 width && fits4 next
  | .readCounter tag counter => tagOk tag && fits1 counter
  | .admitJob tag job station plate nest policy expedite code count declared len wid corner nl nw entries =>
      tagOk tag && fits2 job && fits1 station && fits2 plate && fits2 nest && fits1 policy && fits1 expedite
        && fits1 code && fits1 count && fits1 declared && fits2 len && fits2 wid && fits1 corner && fits2 nl
        && fits2 nw && count == entries.length && entries.all RawEntry.wellFormed
  | .readJob tag job | .cancelJob tag job => tagOk tag && fits2 job
  | .submitMove tag move kind plate dropKind dropFirst dropSecond expedite wait =>
      tagOk tag && fits1 move && fits1 kind && fits2 plate && fits1 dropKind && fits1 dropFirst && fits1 dropSecond
        && fits1 expedite && fits1 wait
  | .cancelMove tag move | .readMove tag move => tagOk tag && fits1 move
  | .readCrane tag crane | .restoreCrane tag crane => tagOk tag && fits1 crane
  | .readNode tag address => tagOk tag && fits1 address
  | .reservationExpired job => fits2 job
  | .parkTimerExpired station => fits1 station
  | .moveWaitExpired move => fits1 move
  | .roundGapExpired | .lineFrameSent | .replyWindowExpired => true
  | .reportReceived chars => !chars.isEmpty
  | .stopAllSent | .broadcastWindowExpired => true

end Sys2Proof
end

