-- ==== Sys2Proof/Safety.lean ====
section
/-! DEFINITION. The terms in which claims are stated: when a request is served and what its service leaves, and the
invariants that a run keeps. -/
namespace Sys2Proof.Machine

/-! ## The service of a request -/

/-- The request is served at this event: it is the head WAITING request, or none waits and there is room (R168, R169). -/
abbrev State.onTurn (s : State) (c : Instr) : Prop :=
  s.link.turn (fun r => r.asks c) = .head ∨ s.link.turn (fun r => r.asks c) = .direct

/-- The Host Link Interface after a request is served with a reply and the notices of its event are raised (R169, R171,
R170). -/
def State.linkAfter (s : State) (c : Instr) (tag : Nat) (a : Reply) (out : List Notice) : HostLink :=
  ((s.link.answer (s.link.turn fun r => r.asks c) c.requestCode tag a).raiseAll out).pump

/-- The command answers a next state: the hall as given, the reply in the input queue, the notices raised, and nothing
else changed. -/
def State.answers (s : State) (c : Instr) (tag : Nat) (a : Reply) (hall : Hall) (out : List Notice) : Prop :=
  exec c s = .next { s with hall := hall, link := s.linkAfter c tag a out }

/-- The request is refused, and the hall is as it was. -/
def State.refuses (s : State) (c : Instr) (tag : Nat) (code : RefusalCode) (d : Detail) : Prop :=
  s.answers c tag (.refused code d) s.hall []

/-- The request is accepted with a result body, and the hall is as it was. -/
def State.reports (s : State) (c : Instr) (tag : Nat) (body : List Byte) : Prop :=
  s.answers c tag (.accepted body) s.hall []

/-- The request is accepted with a result body and has the effect `f` on the floor, with what is due at the same event. -/
def State.accepts (s : State) (c : Instr) (tag : Nat) (body : List Byte) (f : Ctx → Work → Work) : Prop :=
  s.answers c tag (.accepted body) (s.hall.onFloor [] f).1 (s.hall.onFloor [] f).2

/-- The hall takes a command that changes its state (R151): the hall state and the reply follow the event's close, and
the notices begin with the HALL notice of the command. -/
def State.changesTo (s : State) (c : Instr) (tag value : Nat) (new : HallState) (f : Ctx → Work → Work) : Prop :=
  let h := s.hall.inState new
  let r := h.onFloor [h.hallNotice (.command value) s.hall.sup.state] f
  s.answers c tag (.accepted (enc1 r.1.sup.state.code)) r.1 r.2

/-- The hall states in which a request is accepted (section 9.5, R151); an event that is no request has none. -/
def acceptedIn : Instr → List HallState
  | .setGrade .. | .setRunway .. | .setLimits .. | .setStation .. | .setCrane .. | .setRack .. | .setLine ..
  | .setPoll .. | .commitSetup _ | .clearRegister _ => [.setup]
  | .start _ => [.ready]
  | .hold _ => [.run, .holding, .held]
  | .resume _ => [.holding, .held]
  | .freeze _ => [.setup, .ready, .run, .holding, .held, .frozen]
  | .clearFreeze _ => [.frozen]
  | .reconfigure _ => [.ready, .held]
  | .registerPlate .. | .releasePlate .. | .removePlate .. | .placeRemnant .. | .acceptEmpty .. | .recheck ..
  | .acceptObject .. | .admitJob .. | .cancelJob .. | .scrapRemnant .. | .skeletonManual .. | .submitMove ..
  | .cancelMove .. | .restoreCrane .. => [.ready, .run, .holding, .held]
  | .stationHold .. | .stationResume .. | .consumablesChanged .. | .readNode .. =>
      [.ready, .run, .holding, .held, .frozen]
  | .defineTemplate .. | .setCounter .. => [.setup, .ready, .run, .holding, .held]
  | .runwayResume _ => [.run, .holding, .held]
  | .readPlate .. | .readRack .. | .findStock .. | .readStation .. | .readTemplate .. | .readCounter .. | .readJob ..
  | .readQueue .. | .readMove .. | .readMoves _ | .readCrane .. | .readHall _ | .getStatus _ | .identify _
  | .setNotices .. => [.setup, .ready, .run, .holding, .held, .frozen]
  | .reset .. | .stopAsserted | .stopReleased | .hostFrameReceived _ | .hostFrameDiscarded _ | .hostByteGapTimeout
  | .hostFrameSent | .unknownRequest .. | .reservationExpired _ | .parkTimerExpired _ | .moveWaitExpired _
  | .roundGapExpired | .lineFrameSent | .replyWindowExpired | .reportReceived _ | .stopAllSent
  | .broadcastWindowExpired => []

/-- The requests that read, and SET_NOTICES, which sets the Host Link Interface's enable set alone: none of them has an effect
on the hall (sections 1.6 to 9.4). -/
def isRead : Instr → Bool
  | .readPlate .. | .readRack .. | .findStock .. | .readStation .. | .readTemplate .. | .readCounter .. | .readJob ..
  | .readQueue .. | .readMove .. | .readMoves _ | .readCrane .. | .readHall _ | .getStatus _ | .identify _
  | .setNotices .. | .readNode .. => true
  | _ => false

/-- The tests of a request's fields against their ranges, in the order of its body (R175 and the rule of each
request); none for a request whose fields are only looked up. -/
def fieldTests (fl : Floor) : Instr → List Bool
  | .setGrade _ index name density rotation factor => gradeTests index name density rotation factor
  | .setRunway _ length separation scrap bayCount bays => runwayTests length separation scrap bayCount bays
  | .setLimits _ jump restore pct absmin minSide minArea => limitTests jump restore pct absmin minSide minArea
  | .setStation _ station address bedL bedW maxT position wearLimit warnLevel parkCode =>
      stationTests ⟨station, address, bedL, bedW, maxT, position, wearLimit, warnLevel, parkCode⟩
  | .setCrane _ crane address swl tare cm tfull tmin halfSpan limitMin limitMax =>
      craneTests ⟨crane, address, swl, tare, cm, tfull, tmin, halfSpan, limitMin, limitMax⟩
  | .setRack _ rack address slots maxL maxW maxMass position =>
      rackTests ⟨rack, address, slots, maxL, maxW, maxMass, position⟩
  | .setLine _ rate window missLimit roundGap => lineTests rate window missLimit roundGap
  | .setPoll _ position address kind repetition base => pollTests position address kind repetition base
  | .registerPlate _ _ grade thickness heat len wid corner nl nw =>
      true :: plateTests grade thickness heat len wid corner nl nw
  | .placeRemnant _ _ _ grade thickness heat len wid corner nl nw =>
      true :: true :: plateTests grade thickness heat len wid corner nl nw
  | .findStock _ grade thickness needL needW rotate count => findTests grade thickness needL needW rotate count
  | .defineTemplate _ template fieldCount fields =>
      [inRange 1 16 template, decide (fieldCount ≤ 6)] ++ fields.map fun f => (fieldOf f).isSome
  | .readTemplate _ template => [inRange 1 16 template]
  | .setCounter _ counter width next => [inRange 1 8 counter, inRange 1 8 width, decide (next < 10 ^ width)]
  | .readCounter _ counter => [inRange 1 8 counter]
  | .admitJob _ job station plate nest policy expedite code count declared len wid corner nl nw entries =>
      Admission.tests
        ⟨job, station, plate, nest, policy, expedite, code, count, declared, len, wid, corner, nl, nw, entries⟩
  | .submitMove _ move kind plate dropKind dropFirst dropSecond expedite wait =>
      Submission.tests ⟨move, kind, plate, dropKind, dropFirst, dropSecond, expedite, wait⟩ fl
  | .cancelMove _ move | .readMove _ move => [decide (move ≤ 31)]
  | _ => []

/-! ## The Host Link Interface -/

/-- The bounds of the host link's queues and counts (R167, R168, R171). -/
def HostLink.bounded (k : HostLink) : Prop :=
  k.input.length ≤ 4 ∧ k.overruns.length ≤ 8 ∧ k.notices.length ≤ 32 ∧ k.lostCount ≤ 65535 ∧ k.discarded ≤ 65535

/-- Requests are served in arrival order: every SERVED request stands before every WAITING one (R169). -/
def servedFirst (input : List Request) : Prop := input.Pairwise fun a b => b.reply.isSome → a.reply.isSome

/-- What the transmitter is doing agrees with the queues (R170): idle only with nothing to send, and a reply being sent is
that of the oldest SERVED request. -/
def HostLink.transmits (k : HostLink) : Prop :=
  match k.tx with
  | none => k.overruns = [] ∧ k.replyFrame = none ∧ k.notices = []
  | some f => f.kind = .reply → k.replyFrame = some f.bytes

/-- The host link's invariant. -/
def HostLink.Inv (k : HostLink) : Prop := k.bounded ∧ servedFirst k.input ∧ k.transmits

/-- The receiver hunts, or holds a start byte and the bytes of a frame that is not yet complete (R167). -/
def HostLink.assembling (k : HostLink) : Prop := k.rx = [] ∨ ∃ l, k.rx = 0xA7#8 :: l ∧ assemble l = .more

/-! ## The hall record -/

/-- The hall record's invariant: what R149 says of frozen-from, the freeze cause and the capture time, the clock's width
(R150), the passage to HELD (R157) and the ALERT output (R163). -/
def Hall.recordInv (h : Hall) : Prop :=
  (h.sup.frozenFrom.isSome ↔ h.sup.state = .frozen) ∧ (h.sup.cause.isSome ↔ h.sup.state = .frozen)
    ∧ h.sup.frozenFrom ≠ some .frozen ∧ (h.sup.stopInput = true → h.sup.capture.isSome)
    ∧ h.sup.clock < 4294967296 ∧ (h.sup.state = .holding → h.fl.atRest = false)
    ∧ h.sup.alert = alertOf h.sup.state h.fl.line.nodes

/-! ## The floor -/

/-- The hall is in SETUP, or in FROZEN from SETUP: no plate, job or move is present there (R79, R161). -/
def Hall.inSetup (h : Hall) : Prop :=
  h.sup.state = .setup ∨ (h.sup.state = .frozen ∧ h.sup.frozenFrom = some .setup)

/-- The grants of the two cranes keep the separation (R116). -/
def Hall.separated (h : Hall) : Prop :=
  ∀ a b, (h.fl.crane? 1).bind Crane.grant = some a → (h.fl.crane? 2).bind Crane.grant = some b →
    a.hi + h.cfg.separation ≤ b.lo

/-- In SETUP no plate, job or move is present, and no crane holds a grant (R79, R161, R116). -/
def Hall.setupClear (h : Hall) : Prop :=
  h.inSetup → h.fl.plates = [] ∧ h.fl.jobs = [] ∧ h.fl.moves = [] ∧ ∀ k ∈ h.fl.cranes, k.grant = none

/-- The invariant that keeps the cranes apart (R116): the separation of the grants; the crane records are those of the
configuration, each once, numbered 1 and 2; a move is assigned to one of them; and SETUP is clear. -/
def Hall.cranesInv (h : Hall) : Prop :=
  h.separated
    ∧ h.fl.cranes.map Crane.num = h.cfg.cranes.map CraneCfg.num
    ∧ (h.fl.cranes.map Crane.num).Pairwise (· < ·)
    ∧ (∀ k ∈ h.fl.cranes, k.num = 1 ∨ k.num = 2)
    ∧ (∀ m ∈ h.fl.moves, ∀ c, m.crane = some c → c = 1 ∨ c = 2)
    ∧ h.setupClear

/-- A plate's stored area and mass are those of the formulas on its own figures (R11, R12). -/
def Plate.figuresHold (cfg : Tables) (p : Plate) : Prop :=
  p.area = areaOf p.len p.wid p.notch ∧ p.mass = massOf p.area p.thickness (cfg.density p.grade)

/-- The invariant of the Plate Register: every record's figures hold, and SETUP is clear. -/
def Hall.platesInv (h : Hall) : Prop :=
  (∀ p ∈ h.fl.plates, p.figuresHold h.cfg) ∧ h.setupClear

/-! ## One entry for each number -/

/-- The configuration tables hold one entry for each number, in ascending order (R1, R21, R43, R102, R137). -/
def Tables.keyed (cfg : Tables) : Prop :=
  (cfg.grades.map Grade.index).Pairwise (· < ·) ∧ (cfg.stations.map StationCfg.num).Pairwise (· < ·)
    ∧ (cfg.cranes.map CraneCfg.num).Pairwise (· < ·) ∧ (cfg.racks.map RackCfg.num).Pairwise (· < ·)
    ∧ (cfg.polls.map PollEntry.position).Pairwise (· < ·)

/-- The records of the floor have one entry for each number: plates, bays, racks, stations, counters, cranes and nodes in
ascending order, jobs and moves in the order of their queues (R2, R22, R44, R68, R79, R103, R107, R139). -/
def Floor.keyed (fl : Floor) : Prop :=
  (fl.plates.map Plate.id).Pairwise (· < ·) ∧ (fl.bays.map Bay.num).Pairwise (· < ·)
    ∧ (fl.racks.map Rack.num).Pairwise (· < ·) ∧ (fl.stations.map Station.num).Pairwise (· < ·)
    ∧ (fl.counters.map Counter.id).Pairwise (· < ·) ∧ (fl.cranes.map Crane.num).Pairwise (· < ·)
    ∧ (fl.line.nodes.map Node.address).Pairwise (· < ·) ∧ (fl.jobs.map Job.id).Nodup ∧ (fl.moves.map Move.tag).Nodup

/-- Every table of the hall has one entry for each number. -/
def Hall.keyed (h : Hall) : Prop := h.cfg.keyed ∧ h.fl.keyed ∧ (h.templates.map Template.id).Pairwise (· < ·)

/-! ## The effect of a freeze -/

/-- Every duration timer of the floor stands still (R20). -/
def Floor.timersStand (fl : Floor) : Prop :=
  (∀ st ∈ fl.stations, st.park.state ≠ .running) ∧ (∀ j ∈ fl.jobs, j.timer.state ≠ .running)
    ∧ ∀ m ∈ fl.moves, m.wait.state ≠ .running

/-- What stands after every block has taken the freeze (R159): FROZEN in every hold set, the timers still, no move in a
phase; and, but for a freeze from SETUP, FROZEN in every crane's stop causes, a STOP at the head of every node's queue and
the broadcast pending. -/
def Floor.halted (fl : Floor) (fromSetup : Bool) : Prop :=
  (∀ st ∈ fl.stations, st.hold.frozen = true) ∧ fl.timersStand ∧ (∀ m ∈ fl.moves, ∀ p, m.state ≠ .phase p)
    ∧ (fromSetup = false → (∀ k ∈ fl.cranes, k.stopFrozen = true) ∧ (∀ n ∈ fl.line.nodes, n.stop = true)
        ∧ fl.line.broadcastPending = true)

/-- The floor at its first values after an entry to SETUP from `old` (R161, R22, R44, R103, R138): what is kept is named,
and everything else is at its first value. -/
def Floor.atSetup (old : Floor) : Floor :=
  { old with
    stations := old.stations.map fun st =>
      { Station.initial st.num st.park.code with
        wear := st.wear, parked := st.parked, hold := { host := st.hold.host, consumables := st.hold.consumables } }
    racks := old.racks.map fun k => ⟨k.num, false, k.slots.map fun s => ⟨s.num, none, .unknown, none, 0, .none, .none, false⟩⟩
    cranes := old.cranes.map fun k => Crane.initial k.num
    moves := []
    runwayStopped := false
    line := ⟨0, [], none, false, .none, false, []⟩ }

/-! ## Rectangles on a plate (R37) -/

/-- Where a placed rectangle of length `a` and width `b` begins, from the west and from the south of a plate. -/
def Placement.corner (len wid a b : Nat) : Placement → Nat × Nat
  | .whole | .westEnd | .southSide => (0, 0)
  | .eastEnd => (len - a, 0)
  | .northSide => (0, wid - b)

/-- Where a notch begins, from the west and from the south of a plate. -/
def Notch.begins (len wid : Nat) (n : Notch) : Nat × Nat :=
  match n.corner with
  | .ne => (len - n.nl, wid - n.nw)
  | .nw => (0, wid - n.nw)
  | .se => (len - n.nl, 0)
  | .sw => (0, 0)

/-- Two rectangles, each by where it begins and its length and width, have no area in common. -/
def apart (p : Nat × Nat) (a b : Nat) (q : Nat × Nat) (c d : Nat) : Prop :=
  p.1 + a ≤ q.1 ∨ q.1 + c ≤ p.1 ∨ p.2 + b ≤ q.2 ∨ q.2 + d ≤ p.2

/-! ## Admissions -/

/-- The fields of a burn list entry are within their ranges (section 5.1; the part number and the template of a SEPARATION
are disregarded, R175). -/
def RawEntry.inRanges (e : RawEntry) : Prop :=
  (e.kind = 0 ∧ 1 ≤ e.partNo.length ∧ e.partNo.length ≤ 16 ∧ (∀ b ∈ e.partNo, isSymbol b = true) ∧ e.template ≤ 16
      ∧ 1 ≤ e.area ∨ e.kind = 1)
    ∧ e.area ≤ 115200000 ∧ 1 ≤ e.pierces ∧ e.pierces ≤ 16

/-- The fields of a plate record as a request gives them are within their ranges (section 1.2). -/
def plateInRanges (grade thickness : Nat) (heat : Text) (len wid corner nl nw : Nat) : Prop :=
  grade ≤ 15 ∧ 30 ≤ thickness ∧ thickness ≤ 1500 ∧ 1 ≤ heat.length ∧ heat.length ≤ 12
    ∧ (∀ b ∈ heat, isSymbol b = true ∧ b ≠ 0x20#8) ∧ 200 ≤ len ∧ len ≤ 24000 ∧ 200 ≤ wid ∧ wid ≤ 4800 ∧ corner ≤ 4
    ∧ (corner ≠ 0 → 100 ≤ nl ∧ nl + 100 ≤ len ∧ 100 ≤ nw ∧ nw + 100 ≤ wid)

/-- The hall is in READY, RUN, HOLDING or HELD. -/
def Hall.working (h : Hall) : Prop :=
  h.sup.state = .ready ∨ h.sup.state = .run ∨ h.sup.state = .holding ∨ h.sup.state = .held

/-! ## The commit checks (R154) -/

/-- The first item of a list for which a condition holds. -/
def isFirst {α : Type} (p : α → Prop) (l : List α) (a : α) : Prop :=
  ∃ before after, l = before ++ a :: after ∧ p a ∧ ∀ b ∈ before, ¬ p b

/-- The first item of a list that stands in it before. -/
def isRepeat (l : List Nat) (a : Nat) : Prop := ∃ before after, l = before ++ a :: after ∧ before.Nodup ∧ a ∈ before

/-- Row `i` of the table of R154 fails with its refusal code and detail item, taken by itself. The row of equal addresses is
rows 2 and 3 here: the devices', then the poll entries'. -/
def Tables.fails (cfg : Tables) (i : Nat) (code : RefusalCode) (d : Detail) : Prop :=
  let devices : List (Nat × NodeKind × Detail) :=
    cfg.stations.map (fun c => (c.address, .station, .station c.num))
      ++ cfg.cranes.map (fun c => (c.address, .crane, .crane c.num))
      ++ cfg.racks.map (fun c => (c.address, .rack, .rackSlot c.num 0))
  match i with
  | 0 => cfg.stations = [] ∧ code = .noStation ∧ d = .none
  | 1 => cfg.cranes = [] ∧ code = .noCrane ∧ d = .none
  | 2 => ∃ a, isRepeat (devices.map fun v => v.1) a ∧ code = .addressClash ∧ d = .address a
  | 3 => ∃ a, isRepeat (cfg.polls.map PollEntry.address) a ∧ code = .addressClash ∧ d = .address a
  | 4 => ∃ v, isFirst (fun v => ∀ e ∈ cfg.polls, e.address ≠ v.1) devices v ∧ code = .noPollEntry ∧ d = v.2.2
  | 5 => ∃ v, isFirst (fun v => ∃ e ∈ cfg.polls, e.address = v.1 ∧ e.kind ≠ v.2.1) devices v
      ∧ code = .kindMismatch ∧ d = v.2.2
  | 6 => ∃ e, isFirst (fun e => ∀ v ∈ devices, v.1 ≠ e.address) cfg.polls e ∧ code = .pollEntryUnused
      ∧ d = .pollPosition e.position
  | 7 => ∃ e, isFirst (fun e => e.kind = .crane ∧ e.repetition ≠ 1) cfg.polls e ∧ code = .craneRepetition
      ∧ d = .pollPosition e.position
  | 8 => cfg.runway = none ∧ code = .runwayUnset ∧ d = .none
  | 9 => ∃ r c, cfg.runway = some r ∧ isFirst (fun c => r.length < c.limitMax) cfg.cranes c ∧ code = .craneLimits
      ∧ d = .crane c.num
  | 10 => ∃ a b, cfg.crane? 1 = some a ∧ cfg.crane? 2 = some b ∧ b.limitMin ≤ a.limitMin ∧ code = .craneOrder
      ∧ d = .number b.limitMin
  | 11 => ∃ c, isFirst (fun c => c.swl ≤ c.tare) cfg.cranes c ∧ code = .tareNotBelowSwl ∧ d = .crane c.num
  | 12 => ∃ r p, cfg.runway = some r ∧ isFirst (fun p => r.length < p.2
        ∨ ∀ c ∈ cfg.cranes, p.2 < c.limitMin ∨ c.limitMax < p.2)
      (cfg.stations.map (fun c => (Place.station c.num, c.position))
        ++ r.bays.zipIdx.map (fun b => (Place.bay (b.2 + 1), b.1))
        ++ cfg.racks.map (fun c => (Place.slot c.num 0, c.position)) ++ [(Place.scrap, r.scrap)]) p
      ∧ code = .positionUnreachable ∧ d = p.1.detail
  | 13 => cfg.limits = none ∧ code = .limitsUnset ∧ d = .none
  | _ => False

/-! ## Orders and grants (R106, R116, R120) -/

/-- An order produced for a crane: it waits in the crane's outbox, or stands in the order queue of its node (R106). -/
def Ctx.produced (x : Ctx) (fl : Floor) (c : Nat) (o : Order) : Prop :=
  (∃ k, fl.crane? c = some k ∧ o ∈ k.outbox)
    ∨ ∃ n, fl.node? (x.craneAddress c) = some n ∧ ∃ q ∈ n.orders, q.order = o

/-- The points that the move bound to a crane still has to reach (R120): the pickup and the drop, the drop alone once its
load is lifted, and none for a crane that is IDLE. -/
def Ctx.toReach (x : Ctx) (fl : Floor) (k : Crane) (points : List Nat) : Prop :=
  (k.bound = none ∧ points = [])
    ∨ ∃ t m b, k.bound = some t ∧ fl.move? t = some m ∧ x.cfg.placeAt m.drop = some b
        ∧ (((m.state = .phase .toDrop ∨ m.state = .phase .setDownWait) ∧ points = [b])
          ∨ ((m.state = .bound ∨ m.state = .phase .toPickup ∨ m.state = .phase .liftCheck)
              ∧ ∃ a, x.pickupAt fl m = some a ∧ points = [a, b]))

/-- A number that may be given to the next order of a node (R140). -/
def Node.available (n : Node) (k : Nat) : Prop :=
  k ≠ n.lastTaken ∧ (∀ q ∈ n.orders, q.number ≠ k) ∧ k ∉ n.unsettled

/-! ## The hall line (R138, R141, R147) -/

/-- The line after the visit due next in a round has begun: the node of the first poll position due is visited with the
frame of its record, or, with none due, the round gap runs. -/
def Hall.visitBegins (h : Hall) (due : List Nat) (l : Line) : Prop :=
  match due with
  | [] => l.gap = true ∧ l.due = []
  | p :: ps => ∃ e n, h.cfg.poll? p = some e ∧ h.fl.node? e.address = some n ∧ l.due = ps
      ∧ l.visit = some ⟨e.address, n.stop, (n.visitFrame h.sup.state).1, false⟩

/-- Every poll position of a list has its entry, and that entry its node record (R139). -/
def Hall.polled (h : Hall) (due : List Nat) : Prop :=
  ∀ p ∈ due, ∃ e n, h.cfg.poll? p = some e ∧ h.fl.node? e.address = some n

/-- The line is free (R147): a broadcast pending is being sent, or else the visit due next has begun. -/
def Line.goesOn (due : List Nat) (pending : Bool) (l : Line) : Prop :=
  (pending = true → l.broadcast = .sending ∧ l.due = due ∧ l.visit = none)
    ∧ (pending = false → ∀ p ps, due = p :: ps → l.due = ps ∧ ∃ a stop frame, l.visit = some ⟨a, stop, frame, false⟩)
    ∧ (pending = false → due = [] → l.gap = true ∧ l.visit = none)

/-- Characters of the hall line, each a data character with a good stop bit. -/
def lineChars (l : List Byte) : List LineChar := l.map fun b => ⟨b, false, true⟩

/-! ## Serial counters -/

/-- A counter runs up (R69, R70): the last issued value is below the next one unless the counter is exhausted, and next fits
the width. -/
def Counter.runsUp (c : Counter) : Prop :=
  (∀ l, c.last = some l → c.exhausted = true ∨ ∃ n, c.next = some n ∧ l < n)
    ∧ ∀ n, c.next = some n → n < 10 ^ c.worstWidth

end Sys2Proof.Machine
end

