-- ==== Sys2Proof/Certificates/Slice0/Obligations.lean ====
section
/-! DEFINITION. The statements for the provers. Requests are stated on their turn (R168, R169): `onTurn`. A statement's
docstring names the rules it formalises, and says where it rests on a choice of the model. -/
open Sys2Proof Sys2Proof.Machine

/-! ## The step, the clock and the pins -/

/-- A step runs the command at the front of the queue on the state with the queue's rest. (The queue is the model's own:
notes/assumptions 5.) -/
def Obligations.StepRunsTheFrontCommand : Prop :=
  ∀ (c : Instr) (rest : List Instr) (s : State), s.pending = c :: rest → step s = exec c { s with pending := rest }

/-- With no command waiting a step is one millisecond (the model's choice, notes/assumptions 2): the hall clock rises by 1
and wraps from 4,294,967,295 to 0 (R150), every RUNNING timer's remaining time falls by 1 and every other timer stands
(R20), the expiries of this millisecond are queued, and nothing else changes. -/
def Obligations.IdleStepIsOneMillisecond : Prop :=
  ∀ s : State, s.pending = [] →
    ∃ t, step s = .next t ∧ t.link = s.link ∧ t.hall.cfg = s.hall.cfg ∧ t.hall.templates = s.hall.templates
      ∧ t.hall.sup = { s.hall.sup with clock := (s.hall.sup.clock + 1) % 4294967296 }
      ∧ t.hall.fl = { s.hall.fl with
          jobs := s.hall.fl.jobs.map fun j => { j with timer := j.timer.tick }
          stations := s.hall.fl.stations.map fun st => { st with park := st.park.tick }
          moves := s.hall.fl.moves.map fun m => { m with wait := m.wait.tick } }
      ∧ (∀ r : Timer, r.tick =
          if r.state = .running then { r with remaining := r.remaining - 1 } else r)
      ∧ ∀ c, c ∈ t.pending ↔
          (∃ j ∈ s.hall.fl.jobs, j.timer.state = .running ∧ j.timer.code ≠ 0 ∧ j.timer.remaining ≤ 1
            ∧ c = .reservationExpired j.id)
          ∨ (∃ st ∈ s.hall.fl.stations, st.park.state = .running ∧ st.park.code ≠ 0 ∧ st.park.remaining ≤ 1
            ∧ c = .parkTimerExpired st.num)
          ∨ (∃ m ∈ s.hall.fl.moves, m.wait.state = .running ∧ m.wait.code ≠ 0 ∧ m.wait.remaining ≤ 1
            ∧ c = .moveWaitExpired m.tag)

/-- R19: the duration in hall milliseconds of every duration code, and that no request is refused for its code. -/
def Obligations.DurationCodesDecode : Prop :=
  durationMs 0 = 0 ∧ (∀ n, 1 ≤ n → n ≤ 100 → durationMs n = n * 6 * 1000)
    ∧ (∀ n, 101 ≤ n → n ≤ 200 → durationMs n = (10 + (n - 100)) * 60 * 1000)
    ∧ (∀ n, 201 ≤ n → n ≤ 255 → durationMs n = (110 + (n - 200) * 30) * 60 * 1000)
    ∧ (∀ n ≤ 255, durationMs n ≤ durationMs 255) ∧ durationMs 255 = 105600000
    ∧ (∀ (t : Timer) (r : Nat), (⟨0, r, t.state⟩ : Timer).canExpire = false)
    ∧ (∀ code ≤ 255, ∀ fl tag n address bedL bedW maxT position wearLimit warnLevel,
        fieldTests fl (.setStation tag n address bedL bedW maxT position wearLimit warnLevel code)
          = fieldTests fl (.setStation tag n address bedL bedW maxT position wearLimit warnLevel 0))
    ∧ (∀ code ≤ 255, ∀ fl tag job station plate nest policy expedite count declared len wid corner nl nw entries,
        fieldTests fl
            (.admitJob tag job station plate nest policy expedite code count declared len wid corner nl nw entries)
          = fieldTests fl
            (.admitJob tag job station plate nest policy expedite 0 count declared len wid corner nl nw entries))
    ∧ (∀ code ≤ 255, ∀ fl tag move kind plate dropKind dropFirst dropSecond expedite,
        fieldTests fl (.submitMove tag move kind plate dropKind dropFirst dropSecond expedite code)
          = fieldTests fl (.submitMove tag move kind plate dropKind dropFirst dropSecond expedite 0))
    ∧ durationMs 37 = 222000 ∧ durationMs 100 = 600000 ∧ durationMs 101 = 660000 ∧ durationMs 150 = 3600000
    ∧ durationMs 200 = 6600000 ∧ durationMs 201 = 8400000 ∧ durationMs 210 = 24600000

/-- The RESET command (R149, R165 and the reset clauses of the other rules): with the STOP input released every record is at
its first value, spelled out here; with the STOP input held asserted the hall enters FROZEN from SETUP at once (R159) and
its HALL notice is being sent. -/
def Obligations.ResetClearsEveryRecord : Prop :=
  (∀ (r : Bool) (s : State),
      exec (.reset r false) s = .next { hall := Hall.initial, link := HostLink.initial r, pending := s.pending })
    ∧ Hall.initial =
        { cfg := { grades := [], runway := none, limits := none, stations := [], cranes := [], racks := [],
                   line := ⟨.kbit250, 5, 3, 10⟩, polls := [] }
          templates := []
          sup := ⟨.setup, none, none, false, none, 0, false⟩
          fl := { plates := [], nextId := 1, bays := [], racks := [], stations := [],
                  counters := [1, 2, 3, 4, 5, 6, 7, 8].map fun id => ⟨id, none, none, none, false, none⟩,
                  jobs := [], cranes := [], moves := [], runwayStopped := false,
                  line := ⟨0, [], none, false, .none, false, []⟩, freeTaken := 0 } }
    ∧ (∀ r, HostLink.initial r =
        { rateHigh := r, rx := [], input := [], overruns := [], notices := [], enabled := NoticeKind.all,
          noticesLost := false, lostCount := 0, overrunLost := false, discarded := 0, tx := none })
    ∧ ∀ (r : Bool) (s : State),
        exec (.reset r true) s = .next
          { hall := { Hall.initial with sup := ⟨.frozen, some .setup, some .stopInput, true, some 0, 0, true⟩ }
            link := { HostLink.initial r with
              tx := some ⟨.notice, Notice.frame ⟨0, .hall .stopInput .setup .frozen true (some 0)⟩⟩ }
            pending := s.pending }

/-- STOP_ASSERTED (R159): from any state but FROZEN the hall enters FROZEN with cause STOP_INPUT, the clock is captured,
ALERT is asserted and every block halts; in FROZEN only the capture time is taken anew, with its HALL notice. STOP_RELEASED
(R159): the input, and its HALL notice, in which the last capture time is the model's choice (notes/assumptions 72); no state
changes. The premise `recordInv` is an invariant stated below. -/
def Obligations.StopInputFreezesTheHall : Prop :=
  ∀ s : State, s.hall.recordInv →
    (s.hall.keyed → s.hall.sup.stopInput = false → s.hall.sup.state ≠ .frozen →
      ∃ t, exec .stopAsserted s = .next t ∧ t.pending = s.pending ∧ t.hall.cfg = s.hall.cfg
        ∧ t.hall.templates = s.hall.templates
        ∧ t.hall.sup = { s.hall.sup with
            state := .frozen, frozenFrom := some s.hall.sup.state, cause := some .stopInput, stopInput := true,
            capture := some s.hall.sup.clock, alert := true }
        ∧ t.hall.fl.halted (s.hall.sup.state == .setup)
        ∧ t.hall.fl.plates = s.hall.fl.plates ∧ t.hall.fl.bays = s.hall.fl.bays ∧ t.hall.fl.racks = s.hall.fl.racks
        ∧ t.hall.fl.counters = s.hall.fl.counters)
    ∧ (s.hall.sup.stopInput = false → s.hall.sup.state = .frozen →
      exec .stopAsserted s = .next
        { s with
          hall := { s.hall with
            sup := { s.hall.sup with stopInput := true, capture := some s.hall.sup.clock, alert := true } }
          link := (s.link.raiseAll
            [⟨s.hall.sup.clock, .hall .stopAsserted .frozen .frozen true (some s.hall.sup.clock)⟩]).pump })
    ∧ (s.hall.sup.stopInput = true →
      exec .stopReleased s = .next
        { s with
          hall := { s.hall with sup := { s.hall.sup with stopInput := false } }
          link := (s.link.raiseAll
            [⟨s.hall.sup.clock, .hall .stopReleased s.hall.sup.state s.hall.sup.state false s.hall.sup.capture⟩]).pump })

/-- An event that the state it meets rules out changes nothing (the model's choice, notes/assumptions 4): a change of the
STOP input to the value it has, the expiry of a timer that does not run, a gap with no frame in assembly, the end of a gap,
a frame, a window or a broadcast that the line is not in, a report that nobody awaits, and an UNKNOWN_REQUEST whose frame is
a request. -/
def Obligations.ImpossibleEventsChangeNothing : Prop :=
  ∀ s : State,
    (s.hall.sup.stopInput = true → exec .stopAsserted s = .next s)
    ∧ (s.hall.sup.stopInput = false → exec .stopReleased s = .next s)
    ∧ (s.link.rx = [] → exec .hostByteGapTimeout s = .next s)
    ∧ (s.link.tx = none → exec .hostFrameSent s = .next s)
    ∧ (∀ code tag body c, decodeRequest code tag body = .ok c → exec (.unknownRequest code tag body) s = .next s)
    ∧ (∀ j, (∀ k, s.hall.fl.job? j = some k → k.timer.state ≠ .running ∨ k.timer.code = 0) →
        exec (.reservationExpired j) s = .next s)
    ∧ (∀ n, (∀ st, s.hall.fl.station? n = some st → st.park.state ≠ .running ∨ st.park.code = 0) →
        exec (.parkTimerExpired n) s = .next s)
    ∧ (∀ m, (∀ k, s.hall.fl.move? m = some k →
          k.wait.state ≠ .running ∨ k.wait.code = 0 ∨ (k.state ≠ .waiting ∧ k.state ≠ .bound)) →
        exec (.moveWaitExpired m) s = .next s)
    ∧ (s.hall.fl.line.gap = false → exec .roundGapExpired s = .next s)
    ∧ (s.hall.fl.line.visit = none → exec .lineFrameSent s = .next s)
    ∧ ((∀ v, s.hall.fl.line.visit = some v → v.awaiting = false) →
        exec .replyWindowExpired s = .next s ∧ ∀ cs, exec (.reportReceived cs) s = .next s)
    ∧ (s.hall.fl.line.broadcast ≠ .sending → exec .stopAllSent s = .next s)
    ∧ (s.hall.fl.line.broadcast ≠ .window → exec .broadcastWindowExpired s = .next s)

/-! ## The host link -/

/-- The characters of a byte string, each with a good stop bit. -/
def goodChars (l : List Byte) : List HostChar := l.map fun b => ⟨b, true⟩

/-- HOST_FRAME_RECEIVED (R166, R167, R168): while the receiver hunts, the characters of a whole frame, for every code, tag
and body that fit it, put the request at the tail of the input queue, WAITING; with four requests present the tag joins the
overrun list, or is not recorded when that holds eight. The transmitter goes on (R170). -/
def Obligations.WholeFrameIsReceived : Prop :=
  ∀ (code tag : Nat) (body : List Byte) (s : State),
    code < 256 → tag < 256 → body.length ≤ 1022 → s.link.rx = [] →
    exec (.hostFrameReceived (goodChars (hostFrame code tag body))) s = .next
      { s with link :=
        (if s.link.input.length < 4 then
           ({ s.link with input := s.link.input ++ [(⟨code, tag, body, none⟩ : Request)] } : HostLink)
         else if s.link.overruns.length < 8 then { s.link with overruns := s.link.overruns ++ [(⟨code, tag⟩ : Overrun)] }
         else { s.link with overrunLost := true }).pump }

/-- HOST_FRAME_DISCARDED (R167): while the receiver hunts, a frame whose length is outside 2-1024, a frame with a wrong CRC
and a frame broken by a framing error are each discarded and counted once, saturating at 65,535, when no other start byte
stands among their bytes; nothing else changes, and the receiver hunts. HOST_BYTE_GAP_TIMEOUT (R167): the frame in assembly
is discarded and counted in the same way. That a byte with a framing error is not kept is the model's choice (notes/assumptions
83). -/
def Obligations.BadFramesAreDiscardedAndCounted : Prop :=
  ∀ s : State,
    let after := { s with link := { s.link with rx := [], discarded := min 65535 (s.link.discarded + 1) }.pump }
    (s.link.rx = [] → ∀ h l : Byte, h ≠ 0xA7#8 → l ≠ 0xA7#8 →
      (h.toNat * 256 + l.toNat < 2 ∨ 1024 < h.toNat * 256 + l.toNat) →
      exec (.hostFrameDiscarded (goodChars [0xA7#8, h, l])) s = .next after)
    ∧ (s.link.rx = [] → ∀ (rest : List Byte) (crc : Crc), 2 ≤ rest.length → rest.length ≤ 1024 →
        (∀ b ∈ enc2 rest.length ++ rest ++ encCrc crc, b ≠ 0xA7#8) → crc ≠ crc16 (enc2 rest.length ++ rest) →
        exec (.hostFrameDiscarded (goodChars (0xA7#8 :: enc2 rest.length ++ rest ++ encCrc crc))) s = .next after)
    ∧ (s.link.rx = [] → ∀ (part : List Byte) (b : Byte), assemble part = .more → (∀ x ∈ part, x ≠ 0xA7#8) →
        exec (.hostFrameDiscarded (goodChars (0xA7#8 :: part) ++ [⟨b, false⟩])) s = .next after)
    ∧ ∀ part : List Byte, s.link.rx = 0xA7#8 :: part → assemble part = .more → (∀ x ∈ part, x ≠ 0xA7#8) →
        exec .hostByteGapTimeout s = .next after

/-- HOST_FRAME_SENT (R168, R170): the reply that has gone takes the oldest SERVED request out of the input queue, an overrun
or a notice nothing; then the transmitter begins the next frame: the oldest overrun, which leaves its list, else the reply of
the oldest SERVED request, else the head of the notice queue, which leaves it, else none. -/
def Obligations.FrameSentBeginsTheNext : Prop :=
  ∀ (s : State) (f : TxFrame), s.link.tx = some f →
    let q := if f.kind = .reply then dropServed s.link.input else s.link.input
    (∀ (before after : List Request) (r : Request), (∀ x ∈ before, x.reply = none) → r.reply.isSome →
        dropServed (before ++ r :: after) = before ++ after)
    ∧ (∀ o rest, s.link.overruns = o :: rest →
        exec .hostFrameSent s = .next { s with link := { s.link with
          input := q, overruns := rest,
          tx := some ⟨.overrun, hostFrame 0x7F o.tag ([BitVec.ofNat 8 o.code, 31] ++ [0, 0, 0, 0, 0])⟩ } })
    ∧ (∀ (before after : List Request) (r : Request) (a : Reply), s.link.overruns = [] → q = before ++ r :: after →
        (∀ x ∈ before, x.reply = none) → r.reply = some a →
        exec .hostFrameSent s = .next { s with link := { s.link with
          input := q, tx := some ⟨.reply, a.frame r.code r.tag⟩ } })
    ∧ (∀ n rest, s.link.overruns = [] → (∀ x ∈ q, x.reply = none) → s.link.notices = n :: rest →
        exec .hostFrameSent s = .next { s with link := { s.link with
          input := q, notices := rest, tx := some ⟨.notice, n.frame⟩ } })
    ∧ (s.link.overruns = [] → (∀ x ∈ q, x.reply = none) → s.link.notices = [] →
        exec .hostFrameSent s = .next { s with link := { s.link with input := q, tx := none } })

/-- UNKNOWN_REQUEST (R169, R151): on its turn, a frame whose code names no request or is 0x80 or above, one with tag 0 and
one whose body has not its code's form are refused BAD_FORMAT, with the code, nothing, and the first offset as detail; a
HALL_COMMAND whose value names no command is refused OUT_OF_RANGE. The hall does not change. That a frame with an unknown code
and tag 0 is refused for the code is the model's choice (notes/assumptions 74). -/
def Obligations.BadRequestsAreRefused : Prop :=
  ∀ (s : State) (code tag : Nat) (body : List Byte),
    (s.link.turn (fun r => r.code == code && r.tag == tag && r.body == body) = .head
      ∨ s.link.turn (fun r => r.code == code && r.tag == tag && r.body == body) = .direct) →
    let refused := fun (r : RefusalCode) (d : Detail) =>
      exec (.unknownRequest code tag body) s = .next { s with link :=
        (s.link.answer (s.link.turn fun r => r.code == code && r.tag == tag && r.body == body) code tag
          (.refused r d)).pump }
    (128 ≤ code → refused .badFormat (.messageCode code))
    ∧ (bodyForm code tag = none → refused .badFormat (.messageCode code))
    ∧ (tag = 0 → (bodyForm code 0).isSome → refused .badFormat .none)
    ∧ (∀ n, decodeRequest code tag body = .error (.malformed n) → refused .badFormat (.offset n))
    ∧ (code = 0x10 → tag ≠ 0 → ∀ v : Byte, body = [v] → (v = 0 ∨ 9 ≤ v.toNat) → refused .outOfRange (.field 1))

/-- DECODE AND ENCODE AGREE (R175, section 10.3): the body of every well-formed request decodes to the request, with every
operand at every value its encoding admits. The codes of the template field kinds and of the line rate, and the layouts of the
drop and the notch, are the model's choice where the manual numbers none (notes/assumptions 12), and so are the widths of the
fields that section 10.1 does not name (notes/assumptions 63). -/
def Obligations.EveryRequestDecodesFromItsBody : Prop :=
  ∀ (c : Instr) (tag : Nat), c.wellFormed = true → requestTag c = some tag →
    decodeRequest c.requestCode tag (requestBody c) = .ok c

/-- A request command takes its turn where R168 and R169 let it: on another request's turn it changes nothing, and with four
requests present, all SERVED, it is dropped for the overrun list (the model's reading of the queue, notes/assumptions 3). -/
def Obligations.RequestsWaitTheirTurn : Prop :=
  ∀ (c : Instr) (tag : Nat) (s : State), requestTag c = some tag →
    (s.link.turn (fun r => r.asks c) = .notNow → exec c s = .next s)
    ∧ (s.link.turn (fun r => r.asks c) = .overrun →
        exec c s = .next { s with link := (s.link.arrive c.requestCode tag []).pump })

/-- R169: every request served on its turn is answered, by a reply that stands in the input queue, and a REFUSED request
changes neither the hall nor any setting of the host link, and raises no notice. -/
def Obligations.RefusedRequestsChangeNothing : Prop :=
  ∀ (c : Instr) (tag : Nat) (s : State), requestTag c = some tag → s.onTurn c →
    ∃ (a : Reply) (hall : Hall) (k : HostLink) (out : List Notice),
      exec c s = .next { s with
        hall := hall
        link := ((k.answer (s.link.turn fun r => r.asks c) c.requestCode tag a).raiseAll out).pump }
      ∧ k.input = s.link.input
      ∧ ∀ code d, a = .refused code d → hall = s.hall ∧ k = s.link ∧ out = []

/-- Section 9.5: on its turn, a request served in a hall state that does not accept it is refused NOT_ACCEPTED with the hall
state as detail item; a HALL_COMMAND while a broadcast is pending is refused BUSY first (R151). -/
def Obligations.RequestsAreRefusedInOtherStates : Prop :=
  ∀ (c : Instr) (tag : Nat) (s : State), requestTag c = some tag → s.onTurn c →
    (c.requestCode = 0x10 → s.hall.fl.line.broadcastPending = true → s.refuses c tag .busy .none)
    ∧ ((c.requestCode = 0x10 → s.hall.fl.line.broadcastPending = false) → s.hall.sup.state ∉ acceptedIn c →
        s.refuses c tag .notAccepted (.enumerated 1 s.hall.sup.state.code))

/-- R175 and the range check of each request: in a hall state that accepts it, a request with a field outside its range is
refused OUT_OF_RANGE with the first such field's ordinal, and nothing changes. What counts as one field is the model's choice
where the manual leaves it open: a notch is three fields, a drop one, the declared remnant six, a burn list entry five, field i
of a template is field 2 + i (notes/assumptions 12), and the bay positions are one (notes/assumptions 30). -/
def Obligations.FirstFieldOutsideItsRangeIsRefused : Prop :=
  ∀ (c : Instr) (tag n : Nat) (s : State), requestTag c = some tag → s.onTurn c → s.hall.sup.state ∈ acceptedIn c →
    firstBad (fieldTests s.hall.fl c) = some n → s.refuses c tag .outOfRange (.field n)

/-- The requests that read, and SET_NOTICES, which changes the enable set of the host link alone (R172), leave the hall and
the commands still waiting as they were. -/
def Obligations.ReadsLeaveTheHall : Prop :=
  ∀ (c : Instr) (s t : State), isRead c = true → exec c s = .next t →
    t.hall = s.hall ∧ t.pending = s.pending

/-! ## The configuration requests (section 8.3) -/

/-- SET_GRADE (R1): in SETUP, with every field in its range and the name borne by no other index, the entry at the index is
defined or replaced whole; with the name borne by another index the request is refused DUPLICATE with that index. SET_POLL
(R137): address 0 takes the entry out, and any other address defines or replaces it whole. -/
def Obligations.GradesAndPollEntriesAreDefined : Prop :=
  (∀ (s : State) (tag index : Nat) (name : Text) (density rotation factor : Nat),
      let c := Instr.setGrade tag index name density rotation factor
      s.onTurn c → s.hall.sup.state = .setup → index ≤ 15 → 1 ≤ name.length → name.length ≤ 8 →
      (∀ b ∈ name, isSymbol b = true) → 7000 ≤ density → density ≤ 8200 → rotation ≤ 1 → factor ≤ 100 →
      ((∀ g ∈ s.hall.cfg.grades, g.name = name → g.index = index) →
        s.answers c tag (.accepted [])
          { s.hall with cfg := { s.hall.cfg with
              grades := Table.put Grade.index ⟨index, name, density, rotation == 1, factor⟩ s.hall.cfg.grades } } [])
      ∧ (∀ g, s.hall.cfg.grades.find? (fun g => g.name == name && g.index != index) = some g →
          s.refuses c tag .duplicate (.grade g.index)))
    ∧ (∀ (s : State) (tag position address kind repetition base : Nat) (k : NodeKind),
      let c := Instr.setPoll tag position address kind repetition base
      s.onTurn c → s.hall.sup.state = .setup → 1 ≤ position → position ≤ 10 → address ≤ 30 →
      kind = (match k with | .station => 1 | .crane => 2 | .rack => 3) →
      (∃ e, e ≤ 6 ∧ repetition = 2 ^ e) → base < repetition →
      s.answers c tag (.accepted [])
        { s.hall with cfg := { s.hall.cfg with polls :=
            (if address = 0 then Table.drop PollEntry.position position s.hall.cfg.polls
             else Table.put PollEntry.position ⟨position, address, k, repetition, base⟩ s.hall.cfg.polls) } } [])

/-- SET_RUNWAY (R152), SET_LIMITS (R153, absmin held in mass units) and SET_LINE (R136): in SETUP, with every field in its
range, the settings are replaced together; SET_RUNWAY configures its bays anew, each empty and without a claim (R6). The codes of the
line rate, 0 for 250 kbit/s and 1 for 1 Mbit/s, are the model's choice (notes/assumptions 12). -/
def Obligations.RunwayLimitsAndLineAreReplacedWhole : Prop :=
  ∀ (s : State) (tag : Nat), s.hall.sup.state = .setup →
    (∀ (length separation scrap bayCount : Nat) (bays : List Nat),
      let c := Instr.setRunway tag length separation scrap bayCount bays
      s.onTurn c → 20000 ≤ length → length ≤ 400000 → 1000 ≤ separation → separation ≤ 30000 → scrap ≤ 400000 →
      1 ≤ bayCount → bayCount ≤ 8 → bays.length = bayCount → (∀ p ∈ bays, p ≤ 400000) →
      s.answers c tag (.accepted [])
        { s.hall with
          cfg := { s.hall.cfg with runway := some ⟨length, separation, scrap, bays⟩ }
          fl := { s.hall.fl with bays := (List.range' 1 bayCount).map fun b => ⟨b, [], 0, none⟩ } } [])
    ∧ (∀ jump restore pct absmin minSide minArea : Nat,
      let c := Instr.setLimits tag jump restore pct absmin minSide minArea
      s.onTurn c → 100 ≤ jump → jump ≤ 20000 → restore ≤ 31 → 1 ≤ pct → pct ≤ 25 → 5 ≤ absmin → absmin ≤ 500 →
      200 ≤ minSide → minSide ≤ 2000 → 1 ≤ minArea → minArea ≤ 1000 →
      s.answers c tag (.accepted [])
        { s.hall with cfg := { s.hall.cfg with
            limits := some ⟨jump, restore, pct, 10 * absmin, minSide, minArea⟩ } } [])
    ∧ (∀ rate window missLimit roundGap : Nat,
      let c := Instr.setLine tag rate window missLimit roundGap
      s.onTurn c → rate ≤ 1 → 1 ≤ window → window ≤ 20 → 1 ≤ missLimit → missLimit ≤ 15 → roundGap ≤ 100 →
      s.answers c tag (.accepted [])
        { s.hall with cfg := { s.hall.cfg with
            line := ⟨if rate = 0 then .kbit250 else .mbit1, window, missLimit, roundGap⟩ } } [])

/-- SET_STATION (R43, R44), SET_CRANE (R102, R103) and SET_RACK (R21, R22): in SETUP, with every field in its range,
address 0 takes a station or a crane out, slot count 0 a rack; anything else defines the device anew, its masses in mass
units and its record at its first values. A slot total above 64 is refused FULL with the total. That a new crane's load reading
is 0 and its stopped flag NO is the model's choice (notes/assumptions 56). -/
def Obligations.DevicesAreDefinedOrDeleted : Prop :=
  (∀ (s : State) (tag station address bedL bedW maxT position wearLimit warnLevel parkCode : Nat),
      let c := Instr.setStation tag station address bedL bedW maxT position wearLimit warnLevel parkCode
      s.onTurn c → s.hall.sup.state = .setup → 1 ≤ station → station ≤ 4 → address ≤ 30 → 200 ≤ bedL → bedL ≤ 24000 →
      200 ≤ bedW → bedW ≤ 4800 → 30 ≤ maxT → maxT ≤ 1500 → position ≤ 400000 → 100 ≤ wearLimit → wearLimit ≤ 60000 →
      warnLevel ≤ wearLimit → parkCode ≤ 255 →
      (address = 0 → s.answers c tag (.accepted [])
        { s.hall with
          cfg := { s.hall.cfg with stations := Table.drop StationCfg.num station s.hall.cfg.stations }
          fl := { s.hall.fl with stations := Table.drop Station.num station s.hall.fl.stations } } [])
      ∧ (address ≠ 0 → s.answers c tag (.accepted [])
        { s.hall with
          cfg := { s.hall.cfg with stations := (Table.put StationCfg.num
            ⟨station, address, bedL, bedW, maxT, position, wearLimit, warnLevel, parkCode⟩ s.hall.cfg.stations) }
          fl := { s.hall.fl with stations := (Table.put Station.num
            { num := station, state := .vacant, bed := none, claim := none, job := none, phase := none, entry := none,
              hold := ⟨false, false, false, false, false, false⟩, exhausted := none, wear := 0,
              park := ⟨parkCode, 0, .stopped⟩, parked := false, outbox := [], up := false, fault := none,
              sequence := none, cond := .none } s.hall.fl.stations) } } []))
    ∧ (∀ (s : State) (tag crane address swl tare cm tfull tmin halfSpan limitMin limitMax : Nat),
      let c := Instr.setCrane tag crane address swl tare cm tfull tmin halfSpan limitMin limitMax
      s.onTurn c → s.hall.sup.state = .setup → 1 ≤ crane → crane ≤ 2 → address ≤ 30 → 100 ≤ swl → swl ≤ 200000 →
      tare ≤ 199999 → cm ≤ 200000 → 30 ≤ tfull → tfull ≤ 1500 → 30 ≤ tmin → tmin ≤ tfull → 1000 ≤ halfSpan →
      halfSpan ≤ 15000 → limitMin ≤ limitMax → limitMax ≤ 400000 →
      (address = 0 → s.answers c tag (.accepted [])
        { s.hall with
          cfg := { s.hall.cfg with cranes := Table.drop CraneCfg.num crane s.hall.cfg.cranes }
          fl := { s.hall.fl with cranes := Table.drop Crane.num crane s.hall.fl.cranes } } [])
      ∧ (address ≠ 0 → s.answers c tag (.accepted [])
        { s.hall with
          cfg := { s.hall.cfg with cranes := (Table.put CraneCfg.num
            ⟨crane, address, 10 * swl, 10 * tare, 10 * cm, tfull, tmin, halfSpan, limitMin, limitMax⟩ s.hall.cfg.cranes) }
          fl := { s.hall.fl with cranes := (Table.put Crane.num
            { num := crane, position := none, fresh := true, activity := .idle, health := .offline, up := false,
              good := 0, grant := none, bound := none, nodePhase := .idle, nodeTag := none, load := 0,
              stopped := false, fault := none, cleared := false, stopFrozen := false, stopBreach := false,
              outbox := [] } s.hall.fl.cranes) } } []))
    ∧ (∀ (s : State) (tag rack address slots maxL maxW maxMass position : Nat),
      let c := Instr.setRack tag rack address slots maxL maxW maxMass position
      let total := ((s.hall.cfg.racks.filter fun k => k.num != rack).map RackCfg.count).sum + slots
      s.onTurn c → s.hall.sup.state = .setup → 1 ≤ rack → rack ≤ 4 → 1 ≤ address → address ≤ 30 →
      (slots = 0 ∨ (4 ≤ slots ∧ slots ≤ 16)) → 200 ≤ maxL → maxL ≤ 24000 → 200 ≤ maxW → maxW ≤ 4800 → 10 ≤ maxMass →
      maxMass ≤ 150000 → position ≤ 400000 →
      (64 < total → s.refuses c tag .full (.number total))
      ∧ (total ≤ 64 → slots = 0 → s.answers c tag (.accepted [])
        { s.hall with
          cfg := { s.hall.cfg with racks := Table.drop RackCfg.num rack s.hall.cfg.racks }
          fl := { s.hall.fl with racks := Table.drop Rack.num rack s.hall.fl.racks } } [])
      ∧ (total ≤ 64 → slots ≠ 0 → s.answers c tag (.accepted [])
        { s.hall with
          cfg := { s.hall.cfg with racks := (Table.put RackCfg.num
            ⟨rack, address, slots, maxL, maxW, 10 * maxMass, position⟩ s.hall.cfg.racks) }
          fl := { s.hall.fl with racks := (Table.put Rack.num
            ⟨rack, false, (List.range' 1 slots).map fun n => ⟨n, none, .unknown, none, 0, .none, .none, false⟩⟩
            s.hall.fl.racks) } } []))

/-- R1, R21, R43, R102, R136, R137, R152, R153: no event changes the configuration tables outside SETUP but a reset; only
the eight configuration requests change them in SETUP; and only DEFINE_TEMPLATE and a reset change a template (R63). -/
def Obligations.ConfigurationChangesOnlyInSetup : Prop :=
  ∀ (c : Instr) (s t : State), exec c s = .next t → (∀ r h, c ≠ .reset r h) →
    (s.hall.sup.state ≠ .setup → t.hall.cfg = s.hall.cfg)
    ∧ ((c.requestCode < 1 ∨ 8 < c.requestCode ∨ requestTag c = none) → t.hall.cfg = s.hall.cfg)
    ∧ ((∀ tag n k fs, c ≠ .defineTemplate tag n k fs) → t.hall.templates = s.hall.templates)

/-! ## The hall commands (sections 8.4 to 8.7) -/

/-- R154: the commit checks pass for exactly the configurations that the table describes. -/
def Obligations.CommitChecksPassExactly : Prop :=
  ∀ cfg : Tables, cfg.commitFault = none ↔
    cfg.stations ≠ [] ∧ cfg.cranes ≠ []
    ∧ (cfg.stations.map StationCfg.address ++ cfg.cranes.map CraneCfg.address ++ cfg.racks.map RackCfg.address).Nodup
    ∧ (cfg.polls.map PollEntry.address).Nodup
    ∧ (∀ c ∈ cfg.stations, ∃ e ∈ cfg.polls, e.address = c.address ∧ e.kind = .station)
    ∧ (∀ c ∈ cfg.cranes, ∃ e ∈ cfg.polls, e.address = c.address ∧ e.kind = .crane)
    ∧ (∀ c ∈ cfg.racks, ∃ e ∈ cfg.polls, e.address = c.address ∧ e.kind = .rack)
    ∧ (∀ e ∈ cfg.polls, (∃ c ∈ cfg.stations, c.address = e.address) ∨ (∃ c ∈ cfg.cranes, c.address = e.address)
        ∨ ∃ c ∈ cfg.racks, c.address = e.address)
    ∧ (∀ e ∈ cfg.polls, e.kind = .crane → e.repetition = 1)
    ∧ (∃ r, cfg.runway = some r
        ∧ (∀ c ∈ cfg.cranes, c.limitMax ≤ r.length)
        ∧ (∀ a b, cfg.crane? 1 = some a → cfg.crane? 2 = some b → a.limitMin < b.limitMin)
        ∧ (∀ c ∈ cfg.cranes, c.tare < c.swl)
        ∧ ∀ p, (p ∈ cfg.stations.map StationCfg.position ∨ p ∈ r.bays ∨ p ∈ cfg.racks.map RackCfg.position ∨ p = r.scrap) →
            p ≤ r.length ∧ ∃ c ∈ cfg.cranes, c.limitMin ≤ p ∧ p ≤ c.limitMax)
    ∧ cfg.limits ≠ none

/-- COMMIT_SETUP (R154, R155, R139): in SETUP, with the checks passed, the hall becomes READY with a node record for every
poll entry, LOST, and round 0, every station holds NODE_LOST, and the rest of the floor stands; else the first row of the table
of R154 that fails gives the refusal with its code and detail. That racks and cranes stand, LOST and OFFLINE as SETUP left
them, is the model's reading (notes/assumptions 25), and so is the order of the places, stations, bays, racks, scrap point
(notes/assumptions 19), and which of two clashing addresses is named (notes/assumptions 65). -/
def Obligations.CommitSetupMakesTheHallReady : Prop :=
  ∀ (s : State) (tag : Nat), s.onTurn (.commitSetup tag) → s.hall.sup.state = .setup → s.hall.keyed →
    s.hall.fl.line.broadcastPending = false →
    (∀ code d, s.hall.cfg.commitFault = some (code, d) → s.refuses (.commitSetup tag) tag code d)
    ∧ (∀ i code d, s.hall.cfg.fails i code d → (∀ j < i, ∀ e f, ¬ s.hall.cfg.fails j e f) →
        s.refuses (.commitSetup tag) tag code d)
    ∧ (s.hall.cfg.commitFault = none → ∃ h out, s.answers (.commitSetup tag) tag (.accepted [1]) h out
      ∧ h.cfg = s.hall.cfg ∧ h.templates = s.hall.templates
      ∧ h.sup = { s.hall.sup with state := .ready, frozenFrom := none, cause := none, alert := true }
      ∧ (∀ n, n ∈ h.fl.line.nodes ↔ ∃ e ∈ s.hall.cfg.polls, n = ⟨e.address, e.kind, .lost, 0, 0, none, false, [], 0, []⟩)
      ∧ h.fl.line.round = 0 ∧ h.fl.line.broadcastPending = false
      ∧ (∀ st ∈ h.fl.stations, st.hold.nodeLost = true)
      ∧ h.fl.stations.map Station.num = s.hall.fl.stations.map Station.num
      ∧ (∀ n st, s.hall.fl.station? n = some st → st.state = .vacant →
          h.fl.station? n = some { st with hold := { st.hold with nodeLost := true } })
      ∧ h.fl.plates = s.hall.fl.plates ∧ h.fl.bays = s.hall.fl.bays ∧ h.fl.racks = s.hall.fl.racks
      ∧ h.fl.cranes = s.hall.fl.cranes ∧ h.fl.jobs = s.hall.fl.jobs ∧ h.fl.moves = s.hall.fl.moves
      ∧ h.fl.counters = s.hall.fl.counters ∧ h.fl.nextId = s.hall.fl.nextId
      ∧ h.fl.runwayStopped = s.hall.fl.runwayStopped ∧ h.fl.freeTaken = s.hall.fl.freeTaken)

/-- START (R156, R116): in READY, refused CRANE_UNKNOWN for the first crane that is not UP with a position, then
CRANES_TOO_CLOSE with the shortfall; else the hall becomes RUN, each crane's grant its position plus and minus its half-span
within the runway with SET_LIMIT produced, and the queues are examined and the dispatcher scans (R83, R114). What then becomes
of a crane's grant and health: a position too far off is not taken (R104); one in the grant trims it to what the move still has
to reach (R120) while the crane is NORMAL and the runway runs, and counts for a DEGRADED crane, which K of them restore (R128);
one outside it stops the runway (R121); a loss makes the crane DEGRADED (R128), a fault FAULTED (R129). That the good count
stays at 31 is the model's choice (notes/assumptions 57). -/
def Obligations.StartGrantsEveryCraneItsSpan : Prop :=
  (∀ (s : State) (tag : Nat), s.onTurn (.start tag) → s.hall.sup.state = .ready →
    s.hall.fl.line.broadcastPending = false →
    (∀ k, s.hall.fl.cranes.find? (fun k => !(k.up && k.position.isSome)) = some k →
      s.refuses (.start tag) tag .craneUnknown (.crane k.num))
    ∧ ((∀ k ∈ s.hall.fl.cranes, k.up = true ∧ k.position.isSome) →
      (∀ a b, s.hall.cfg.crane? 1 = some a → s.hall.cfg.crane? 2 = some b →
        s.hall.fl.positionOf 2 < s.hall.fl.positionOf 1 + a.halfSpan + s.hall.cfg.separation + b.halfSpan →
        s.refuses (.start tag) tag .cranesTooClose (.number
          (s.hall.fl.positionOf 1 + a.halfSpan + s.hall.cfg.separation + b.halfSpan - s.hall.fl.positionOf 2)))
      ∧ ((∀ a b, s.hall.cfg.crane? 1 = some a → s.hall.cfg.crane? 2 = some b →
          s.hall.fl.positionOf 1 + a.halfSpan + s.hall.cfg.separation + b.halfSpan ≤ s.hall.fl.positionOf 2) →
        s.changesTo (.start tag) tag 2 .run (fun x w => w.startHall x)
        ∧ ∀ (x : Ctx) (w : Work), w.fl = s.hall.fl → x.cfg = s.hall.cfg → s.hall.keyed →
            (w.startHall x).examine = true ∧ (w.startHall x).scan = true
            ∧ ∀ (k : Crane) (p : Nat), s.hall.fl.crane? k.num = some k → k.position = some p →
              let h := x.halfSpan k.num
              let L := s.hall.cfg.runwayLength
              (∃ k', (w.startHall x).fl.crane? k.num = some k' ∧ k'.grant = some ⟨p - h, min L (p + h)⟩)
              ∧ (k.outbox.length ≤ 3 → x.produced (w.startHall x).fl k.num
                  (.setLimit (if p ≤ h then 0 else p) (if L ≤ p + h then L else p))))))
  ∧ (∀ (x : Ctx) (w : Work) (c p : Nat) (faulty : Bool) (k : Crane) (lim : Limits), w.fl.keyed →
    w.fl.crane? c = some k → x.cfg.limits = some lim →
    let L := x.cfg.runwayLength
    let h := x.halfSpan c
    let near := p ≤ L ∧ (k.fresh = true ∨ ∀ q, k.position = some q → p ≤ q + lim.jump ∧ q ≤ p + lim.jump)
    let w' := w.cranePosition x c p faulty
    let seen : Crane := { k with position := some p, fresh := false }
    (¬ near → w'.fl.crane? c = some { k with good := 0 } ∧ w'.out = w.out)
    ∧ ∀ g, near → k.grant = some g →
      (g.lo ≤ p - h → min L (p + h) ≤ g.hi →
        (∀ points least most, k.health = .normal → w.fl.runwayStopped = false → x.toReach w.fl k points →
          least ∈ p :: points → (∀ a ∈ p :: points, least ≤ a) → most ∈ p :: points → (∀ a ∈ p :: points, a ≤ most) →
          let g' : Grant := ⟨max (least - h) g.lo, min (min L (most + h)) g.hi⟩
          (g' = g → w'.fl.crane? c = some seen)
          ∧ (g' ≠ g → (∃ k', w'.fl.crane? c = some k' ∧ { k' with outbox := k.outbox } = { seen with grant := some g' })
            ∧ (k.outbox.length ≤ 3 → x.produced w'.fl c (g'.limits L h))))
        ∧ (k.health = .normal → w.fl.runwayStopped = true → w'.fl.crane? c = some seen)
        ∧ (k.health = .degraded → lim.restore = 0 ∨ k.good + 1 < lim.restore →
            w'.fl.crane? c = some { seen with good := min 31 (k.good + 1) } ∧ w'.out = w.out)
        ∧ (k.health = .degraded → 0 < lim.restore → lim.restore ≤ k.good + 1 → lim.restore ≤ 31 → k.bound = none →
            w'.fl.crane? c = some { seen with good := min 31 (k.good + 1), health := .normal } ∧ w'.scan = true
            ∧ w'.out = w.out ++ [⟨x.clock, .crane .health c .normal (some p) (some g)⟩])
        ∧ (k.health = .faulted → w'.fl.crane? c = some seen ∧ w'.out = w.out))
      ∧ ((p - h < g.lo ∨ g.hi < min L (p + h)) → k.health ≠ .offline →
        (w.fl.runwayStopped = true → w'.fl.crane? c = some { seen with good := 0 } ∧ w'.out = w.out)
        ∧ (w.fl.runwayStopped = false →
          w'.fl.runwayStopped = true ∧ w'.fl.crane? c = some { seen with good := 0, stopBreach := true }
          ∧ (∀ j ∈ w'.fl.cranes, j.stopBreach = true
              ∧ ∀ n, w'.fl.node? (x.craneAddress j.num) = some n → n.stop = true)
          ∧ (∀ m ∈ w'.fl.moves, (∀ q, m.state ≠ .phase q) ∧ ∀ q z, m.state = .suspended q z → z.breach = true)
          ∧ w'.out.getLast? = some ⟨x.clock, .crane .breach c k.health (some p) (some g)⟩)))
  ∧ ∀ (x : Ctx) (w : Work) (c : Nat) (k : Crane), w.fl.keyed → w.fl.crane? c = some k →
    let lost := w.craneLost x c
    let down : Crane := { k with up := false, fresh := true }
    (k.health = .normal → k.grant = none ∨ k.bound = none → lost.fl.crane? c = some { down with health := .degraded, good := 0 }
      ∧ lost.out = w.out ++ [⟨x.clock, .crane .health c .degraded k.position k.grant⟩])
    ∧ (∀ t m, k.health = .normal → k.grant.isSome → k.bound = some t → w.fl.move? t = some m → m.crane = some c →
      (∀ q, m.state = .phase q → m.waitingFor = none →
        lost.fl.move? t = some { m with state := .suspended q { degraded := true } }
        ∧ lost.fl.crane? c = some { down with health := .degraded, good := 0 })
      ∧ (m.state = .bound → m.expired = false →
        lost.fl.move? t = some { m with state := .waiting, crane := none, causedYield := none }
        ∧ lost.fl.crane? c = some { down with health := .degraded, good := 0, bound := none, activity := .idle }))
    ∧ (k.health = .degraded → lost.fl.crane? c = some { down with good := 0 } ∧ lost.out = w.out)
    ∧ (k.health = .faulted → lost.fl.crane? c = some down ∧ lost.out = w.out)
    ∧ (∀ f, k.fault = some f → w.statusFault x c (some f) = w)
    ∧ (∀ f, k.fault ≠ some f → k.health ≠ .faulted → k.grant = none ∨ k.bound = none →
      (w.statusFault x c (some f)).fl.crane? c = some { k with fault := some f, cleared := false, health := .faulted, good := 0 }
      ∧ (w.statusFault x c (some f)).out = w.out ++ [⟨x.clock, .crane .health c .faulted k.position k.grant⟩])
    ∧ (k.fault.isSome → k.cleared = false →
      (w.statusFault x c none).fl.crane? c = some { k with cleared := true }
      ∧ (w.statusFault x c none).out = w.out ++ [⟨x.clock, .crane .faultCleared c k.health k.position k.grant⟩])
    ∧ (k.fault = none ∨ k.cleared = true → w.statusFault x c none = w)

/-- HOLD (R157): from RUN the hall becomes HOLDING, or HELD when nothing is in flight, with HALL in every hold set; in
HOLDING and HELD it is accepted and changes nothing. That the reply shows HELD when both hold at the event HOLD is taken is
the model's reading (notes/assumptions 36). -/
def Obligations.HoldBringsTheHallToRest : Prop :=
  ∀ (s : State) (tag : Nat), s.onTurn (.hold tag) → s.hall.fl.line.broadcastPending = false → s.hall.keyed →
    (s.hall.sup.state = .run → ∃ h out, s.answers (.hold tag) tag (.accepted (enc1 h.sup.state.code)) h out
      ∧ h.sup.state = (if h.fl.atRest then HallState.held else .holding)
      ∧ h.fl.atRest = s.hall.fl.atRest
      ∧ (∀ st ∈ h.fl.stations, st.hold.hall = true)
      ∧ h.fl.plates = s.hall.fl.plates ∧ h.fl.bays = s.hall.fl.bays ∧ h.fl.racks = s.hall.fl.racks
      ∧ h.fl.cranes = s.hall.fl.cranes ∧ h.fl.jobs = s.hall.fl.jobs ∧ h.fl.moves = s.hall.fl.moves
      ∧ h.fl.line = s.hall.fl.line ∧ h.fl.counters = s.hall.fl.counters)
    ∧ (s.hall.sup.state = .holding → s.reports (.hold tag) tag [3])
    ∧ (s.hall.sup.state = .held → s.reports (.hold tag) tag [4])

/-- RESUME (R158): from HOLDING and HELD the hall becomes RUN. At the same event no station keeps HALL or FROZEN in its hold
set, no crane keeps FROZEN among its stop causes, RESUME being produced for each whose stop causes become empty (R106), no
suspended move keeps the cause FROZEN (R127), and the queues are examined and the dispatcher scans (R83, R114). -/
def Obligations.ResumeReturnsTheHallToRun : Prop :=
  ∀ (s : State) (tag : Nat), s.onTurn (.resume tag) → s.hall.fl.line.broadcastPending = false →
    (s.hall.sup.state = .holding ∨ s.hall.sup.state = .held) →
    s.changesTo (.resume tag) tag 4 .run (fun x w => w.resumeHall x)
    ∧ (∃ h out, s.answers (.resume tag) tag (.accepted [2]) h out ∧ h.sup.state = .run ∧ h.sup.frozenFrom = none
        ∧ h.sup.cause = none)
    ∧ (s.hall.keyed → ∀ (x : Ctx) (w : Work), w.fl = s.hall.fl →
      let w' := w.resumeHall x
      w'.examine = true ∧ w'.scan = true
      ∧ (∀ st ∈ w'.fl.stations, st.hold.hall = false ∧ st.hold.frozen = false)
      ∧ (∀ k ∈ w'.fl.cranes, k.stopFrozen = false)
      ∧ (∀ m ∈ w'.fl.moves, ∀ p z, m.state = .suspended p z → z.frozen = false))
    ∧ ∀ (x : Ctx) (w : Work) (c : Nat) (k : Crane), w.fl.crane? c = some k → k.stopFrozen = true → k.stopBreach = false →
      k.outbox.length ≤ 3 → x.produced (w.clearStop x false c).fl c .resume

/-- FREEZE (R159): from any state but FROZEN the hall enters FROZEN with cause COMMAND, its capture time kept, and every
block halts; in FROZEN it is accepted and changes nothing. -/
def Obligations.FreezeHaltsTheHall : Prop :=
  ∀ (s : State) (tag : Nat), s.onTurn (.freeze tag) → s.hall.fl.line.broadcastPending = false → s.hall.keyed →
    (s.hall.sup.state ≠ .frozen → ∃ h out, s.answers (.freeze tag) tag (.accepted [5]) h out
      ∧ h.cfg = s.hall.cfg ∧ h.templates = s.hall.templates
      ∧ h.sup = { s.hall.sup with
          state := .frozen, frozenFrom := some s.hall.sup.state, cause := some .command, alert := true }
      ∧ h.fl.halted (s.hall.sup.state == .setup)
      ∧ h.fl.plates = s.hall.fl.plates ∧ h.fl.bays = s.hall.fl.bays ∧ h.fl.racks = s.hall.fl.racks
      ∧ h.fl.counters = s.hall.fl.counters)
    ∧ (s.hall.sup.state = .frozen → s.reports (.freeze tag) tag [5])

/-- CLEAR_FREEZE (R160): refused STOP_ACTIVE with the capture time while the STOP input is ASSERTED; else the hall returns to
SETUP by the entry to SETUP of R161, to READY, or to HELD, with no frozen-from and no cause. Every timer PAUSED runs on (R20).
In READY the reason FROZEN leaves every hold set and every crane's stop causes; in HELD both stay. -/
def Obligations.ClearFreezeReturnsByFrozenFrom : Prop :=
  ∀ (s : State) (tag : Nat), s.onTurn (.clearFreeze tag) → s.hall.fl.line.broadcastPending = false →
    s.hall.sup.state = .frozen →
    let on := fun (t : Timer) => if t.state = .paused then { t with state := .running } else t
    (∀ n, s.hall.sup.stopInput = true → s.hall.sup.capture = some n →
      s.refuses (.clearFreeze tag) tag .stopActive (.number n))
    ∧ (s.hall.sup.stopInput = false → s.hall.sup.frozenFrom = some .setup →
      ∃ h out, s.answers (.clearFreeze tag) tag (.accepted [0]) h out ∧ h.cfg = s.hall.cfg
        ∧ h.templates = s.hall.templates ∧ h.fl = s.hall.fl.atSetup
        ∧ h.sup = { s.hall.sup with state := .setup, frozenFrom := none, cause := none, alert := false })
    ∧ (s.hall.sup.stopInput = false → s.hall.sup.frozenFrom = some .ready →
      s.changesTo (.clearFreeze tag) tag 6 .ready
        (fun x w => (((w.onTimers Timer.unpause).removeReasonsAll x [.frozen]).clearStops x false).drainAll x)
      ∧ ∃ h out, s.answers (.clearFreeze tag) tag (.accepted [1]) h out ∧ h.sup.state = .ready
        ∧ h.sup.frozenFrom = none ∧ h.sup.cause = none)
    ∧ (s.hall.sup.stopInput = false → ∀ q, s.hall.sup.frozenFrom = some q → (q = .run ∨ q = .holding ∨ q = .held) →
      s.changesTo (.clearFreeze tag) tag 6 .held (fun x w => (w.onTimers Timer.unpause).drainAll x)
      ∧ ∃ h out, s.answers (.clearFreeze tag) tag (.accepted [4]) h out ∧ h.sup.state = .held
        ∧ h.sup.frozenFrom = none ∧ h.sup.cause = none)
    ∧ ∀ (x : Ctx) (w : Work), w.fl = s.hall.fl → s.hall.keyed →
      (w.onTimers Timer.unpause).fl = { s.hall.fl with
          stations := s.hall.fl.stations.map fun st => { st with park := on st.park }
          jobs := s.hall.fl.jobs.map fun j => { j with timer := on j.timer }
          moves := s.hall.fl.moves.map fun m => { m with wait := on m.wait } }
      ∧ (let ready := (((w.onTimers Timer.unpause).removeReasonsAll x [.frozen]).clearStops x false).drainAll x
        (∀ st ∈ ready.fl.stations, st.hold.frozen = false) ∧ ∀ k ∈ ready.fl.cranes, k.stopFrozen = false)
      ∧ (let held := (w.onTimers Timer.unpause).drainAll x
        (∀ n st, s.hall.fl.station? n = some st → ∃ st', held.fl.station? n = some st' ∧ st'.hold.frozen = st.hold.frozen
          ∧ (st.outbox = [] → st' = { st with park := on st.park }))
        ∧ (∀ c k, s.hall.fl.crane? c = some k → ∃ k', held.fl.crane? c = some k' ∧ k' = { k with outbox := k'.outbox })
        ∧ held.fl.jobs = s.hall.fl.jobs.map (fun j => { j with timer := on j.timer })
        ∧ held.fl.moves = s.hall.fl.moves.map (fun m => { m with wait := on m.wait }))

/-- RECONFIGURE (R161): in READY and HELD, refused IN_USE with the lowest job, else the lowest plate, else the lowest move
present; with none the hall enters SETUP, every record at its first value but what R44 keeps. -/
def Obligations.ReconfigureEntersSetupWhenEmpty : Prop :=
  ∀ (s : State) (tag : Nat), s.onTurn (.reconfigure tag) → s.hall.fl.line.broadcastPending = false →
    (s.hall.sup.state = .ready ∨ s.hall.sup.state = .held) →
    (∀ j ∈ s.hall.fl.jobs, (∀ k ∈ s.hall.fl.jobs, j.id ≤ k.id) → s.refuses (.reconfigure tag) tag .inUse (.job j.id))
    ∧ (s.hall.fl.jobs = [] → ∀ p ∈ s.hall.fl.plates, (∀ q ∈ s.hall.fl.plates, p.id ≤ q.id) →
        s.refuses (.reconfigure tag) tag .inUse (.plate p.id))
    ∧ (s.hall.fl.jobs = [] → s.hall.fl.plates = [] → ∀ m ∈ s.hall.fl.moves, (∀ k ∈ s.hall.fl.moves, m.tag ≤ k.tag) →
        s.refuses (.reconfigure tag) tag .inUse (.move m.tag))
    ∧ (s.hall.fl.jobs = [] → s.hall.fl.plates = [] → s.hall.fl.moves = [] →
        ∃ h out, s.answers (.reconfigure tag) tag (.accepted [0]) h out ∧ h.cfg = s.hall.cfg
          ∧ h.templates = s.hall.templates ∧ h.fl = s.hall.fl.atSetup
          ∧ h.sup = { s.hall.sup with state := .setup, frozenFrom := none, cause := none, alert := false })

/-- CLEAR_REGISTER (R162): in SETUP every plate, bay stack, slot register, job and move goes, with every dispute, transfer
and recheck; the next-id counter, the definitions and the sensed states stand; the reply carries the counts after the clear,
each 0, and the counter; that the hall state stands before them is the model's choice (notes/assumptions 82). -/
def Obligations.ClearRegisterEmptiesEveryTable : Prop :=
  ∀ (s : State) (tag : Nat), s.onTurn (.clearRegister tag) → s.hall.fl.line.broadcastPending = false →
    s.hall.sup.state = .setup →
    s.answers (.clearRegister tag) tag (.accepted ([0, 0, 0, 0] ++ enc2 s.hall.fl.nextId))
      { s.hall with fl := { s.hall.fl with
          plates := [], jobs := [], moves := []
          bays := s.hall.fl.bays.map fun b => ⟨b.num, [], 0, none⟩
          racks := s.hall.fl.racks.map fun k => { k with slots := k.slots.map fun q =>
            { q with register := none, dispute := .none, transfer := .none, recheck := false } } } } []

/-! ## Reading the part -/

/-- READ_HALL (R164), IDENTIFY (R174) and GET_STATUS (R173) are answered in every hall state; GET_STATUS clears the
indications of loss, whose values are in its reply, and nothing else changes. The code of the link rate in IDENTIFY, 0 or 1, is
the model's choice (notes/assumptions 12), and so are the STOP input's code, 1 ASSERTED and 0 RELEASED (notes/assumptions 66),
the fault of each station in GET_STATUS (notes/assumptions 45), the layout of the capacity figures (notes/assumptions 73) and
the place of the bay count in READ_HALL (notes/assumptions 81). -/
def Obligations.StatusRequestsReport : Prop :=
  ∀ (s : State) (tag : Nat),
    (s.onTurn (.readHall tag) → s.reports (.readHall tag) tag (encHall s.hall))
    ∧ (s.onTurn (.identify tag) → s.reports (.identify tag) tag
        ([6, 0x4E, 0x49, 0x4E, 0x50, 0x41, 0x52] ++ [14, 0x42, 0x45, 0x4C, 0x49, 0x54, 0x52, 0x41, 0x20, 0x50, 0x48,
          0x43, 0x2D, 0x34, 0x32] ++ [1, if s.link.rateHigh then 1 else 0] ++
          [96, 16, 8, 6, 4, 64, 4, 16, 4, 4, 16, 48, 16, 6, 32, 8, 8, 2, 32, 0, 15, 16, 31, 10, 4, 4, 8, 32, 4]))
    ∧ (s.onTurn (.getStatus tag) → exec (.getStatus tag) s = .next
        { s with link := (({ s.link with
            noticesLost := false, lostCount := 0, overrunLost := false, discarded := 0 } : HostLink).answer
              (s.link.turn fun r => r.asks (.getStatus tag)) 0x12 tag (.accepted (encStatus s.hall s.link))).pump })

/-- SET_NOTICES (R172): with at most ten values in each list, each naming a kind and none in both, the kinds of the enable
list become enabled and those of the disable list disabled, every other kind stays, and the reply carries the set; a value
that names no kind, and then a kind in both lists, is refused OUT_OF_RANGE with the value, as a number: that detail kind is the
model's choice, and which value is named where there are several (notes/assumptions 29). Notices already queued stay. -/
def Obligations.SetNoticesChangesTheEnableSet : Prop :=
  ∀ (s : State) (tag : Nat) (enable disable : List Nat),
    let c := Instr.setNotices tag enable disable
    s.onTurn c → enable.length ≤ 10 → disable.length ≤ 10 →
    (∀ v, (enable ++ disable).find? (fun v => decide (v < 0x80 ∨ 0x89 < v)) = some v →
      s.refuses c tag .outOfRange (.number v))
    ∧ ((∀ v ∈ enable ++ disable, 0x80 ≤ v ∧ v ≤ 0x89) → ∀ v, enable.find? (fun v => disable.contains v) = some v →
      s.refuses c tag .outOfRange (.number v))
    ∧ ((∀ v ∈ enable ++ disable, 0x80 ≤ v ∧ v ≤ 0x89) → (∀ v ∈ enable, v ∉ disable) →
      ∃ set : List NoticeKind,
        (∀ k, k ∈ set ↔ k.code ∈ enable ∨ (k ∈ s.link.enabled ∧ k.code ∉ disable))
        ∧ exec c s = .next { s with link := (({ s.link with enabled := set } : HostLink).answer
            (s.link.turn fun r => r.asks c) 0x14 tag (.accepted (encEnabled set))).pump })

/-- READ_PLATE (R8), READ_RACK (R35), READ_STATION (R61), READ_TEMPLATE (R66), READ_COUNTER (R73), READ_JOB and READ_QUEUE
(R82), READ_MOVE and READ_MOVES (R112), READ_CRANE (R132) and READ_NODE (R148): a record that is present is reported as it
stands, one that is not is refused UNKNOWN_ITEM, and the hall does not change. Where the manual gives a field of a reply no
encoding or no place its bytes are the model's choice (notes/assumptions 6, 46, 52, 53, 58, 60, 62, 63, 68, 69, 76, 77, 79). -/
def Obligations.RecordReadsReportTheRecord : Prop :=
  ∀ (s : State) (tag n : Nat),
    (s.onTurn (.readPlate tag n) →
      (∀ p, s.hall.fl.plate? n = some p → s.reports (.readPlate tag n) tag p.encode)
      ∧ (s.hall.fl.plate? n = none → s.refuses (.readPlate tag n) tag .unknownItem .none))
    ∧ (s.onTurn (.readRack tag n) →
      (∀ c k, s.hall.cfg.rack? n = some c → s.hall.fl.rack? n = some k →
        s.reports (.readRack tag n) tag (encRack s.hall.fl c k))
      ∧ (s.hall.cfg.rack? n = none → s.refuses (.readRack tag n) tag .unknownItem .none))
    ∧ (s.onTurn (.readStation tag n) →
      (∀ c k, s.hall.cfg.station? n = some c → s.hall.fl.station? n = some k →
        s.reports (.readStation tag n) tag (encStation c k))
      ∧ (s.hall.cfg.station? n = none → s.refuses (.readStation tag n) tag .unknownItem .none))
    ∧ (s.onTurn (.readTemplate tag n) → 1 ≤ n → n ≤ 16 →
      s.reports (.readTemplate tag n) tag (encTemplate s.hall.fl s.hall.templates n))
    ∧ (s.onTurn (.readCounter tag n) → 1 ≤ n → n ≤ 8 →
      ∀ c, s.hall.fl.counter? n = some c → s.reports (.readCounter tag n) tag c.encode)
    ∧ (s.onTurn (.readJob tag n) →
      (∀ j, s.hall.fl.job? n = some j → s.reports (.readJob tag n) tag (encJob s.hall.sup.state j))
      ∧ (s.hall.fl.job? n = none → s.refuses (.readJob tag n) tag .unknownItem .none))
    ∧ (s.onTurn (.readQueue tag n) →
      (∀ c, s.hall.cfg.station? n = some c → s.reports (.readQueue tag n) tag
        (encList (fun j => enc2 j.id ++ enc1 j.state.code) (s.hall.fl.jobs.filter fun j => j.station == n)))
      ∧ (s.hall.cfg.station? n = none → s.refuses (.readQueue tag n) tag .unknownItem .none))
    ∧ (s.onTurn (.readMove tag n) → n ≤ 31 →
      (∀ m, s.hall.fl.move? n = some m → s.reports (.readMove tag n) tag
        (m.encode none (m.pickup.bind s.hall.cfg.placeAt) ((s.hall.cfg.placeAt m.drop).getD 0)
          ++ enc2 (bitsOf (s.hall.ctx.reasons s.hall.fl m))))
      ∧ (s.hall.fl.move? n = none → s.refuses (.readMove tag n) tag .unknownItem .none))
    ∧ (s.onTurn (.readMoves tag) → s.reports (.readMoves tag) tag
        (encList (fun m => enc1 m.tag ++ enc1 m.kind.code ++ enc1 m.state.code ++ enc1 (m.crane.getD 0))
          s.hall.fl.moves))
    ∧ (s.onTurn (.readCrane tag n) →
      (∀ c k, s.hall.cfg.crane? n = some c → s.hall.fl.crane? n = some k →
        s.reports (.readCrane tag n) tag (encCrane c k s.hall.fl.runwayStopped))
      ∧ (s.hall.cfg.crane? n = none → s.refuses (.readCrane tag n) tag .unknownItem .none))
    ∧ (s.onTurn (.readNode tag n) → s.hall.sup.state ≠ .setup →
      (∀ k, s.hall.fl.node? n = some k → s.reports (.readNode tag n) tag
        (encNode s.hall.cfg.line s.hall.fl.line (s.hall.cfg.pollAt n) k))
      ∧ (s.hall.fl.node? n = none → s.refuses (.readNode tag n) tag .unknownItem .none))

/-- FIND_STOCK (R36, R37, R38): with every field in its range and the grade defined, the reply lists the first `count` (0
asks for 4) of the plates that lie in an undisputed slot of an UP rack, are FREE, of the grade and thickness asked for, and
fit, ranked by area, registration and id, each with its orientation and placement. -/
def Obligations.FindStockListsTheBestFits : Prop :=
  ∀ (s : State) (tag grade thickness needL needW rotate count : Nat) (g : Grade),
    let c := Instr.findStock tag grade thickness needL needW rotate count
    let n := if count = 0 then 4 else count
    let turn := rotate == 1 && g.rotation
    let found := s.hall.fl.findStock s.hall.cfg grade thickness needL needW (rotate == 1) count
    let fits := fun (p : Plate) (q : Bool × Placement) =>
      (fitIn p.len p.wid p.notch needL needW = some q.2 ∧ q.1 = false)
        ∨ (fitIn p.len p.wid p.notch needL needW = none ∧ turn = true
            ∧ fitIn p.len p.wid p.notch needW needL = some q.2 ∧ q.1 = true)
    let candidate := fun (p : Plate) => p ∈ s.hall.fl.plates ∧ p.hold = .free ∧ p.grade = grade ∧ p.thickness = thickness
        ∧ ∃ r m k q, p.location = .rack r m ∧ s.hall.fl.rack? r = some k ∧ k.up = true
          ∧ s.hall.fl.slot? r m = some q ∧ q.dispute = .none
    s.onTurn c → grade ≤ 15 → 30 ≤ thickness → thickness ≤ 1500 → 1 ≤ needL → needL ≤ 24000 → 1 ≤ needW →
    needW ≤ 24000 → rotate ≤ 1 → count ≤ 4 →
    (s.hall.cfg.grade? grade = none → s.refuses c tag .unknownItem (.grade grade))
    ∧ (s.hall.cfg.grade? grade = some g →
      s.reports c tag (encList encFound found) ∧ found.length ≤ n
      ∧ (found.Pairwise fun a b => a.1.before b.1 = true)
      ∧ (∀ f ∈ found, candidate f.1 ∧ fits f.1 f.2)
      ∧ ∀ p q, candidate p → fits p q →
          (p, q) ∈ found ∨ (found.length = n ∧ ∀ f ∈ found, f.1.before p = true))

/-- R37: the placement of each orientation on a plate without a notch and with one, the orientations tried, and that
FIND_STOCK lists what fits alone; and that a placement holds its rectangle on the plate and clear of the notch. -/
def Obligations.PlacementsClearTheNotch : Prop :=
  (∀ (len wid a b : Nat) (q : Placement), fitIn len wid none a b = some q ↔ a ≤ len ∧ b ≤ wid ∧ q = .whole)
    ∧ (∀ (len wid a b : Nat) (n : Notch), n.nl + 100 ≤ len → n.nw + 100 ≤ wid →
      let atEnd : Placement := if n.corner = .ne ∨ n.corner = .se then .westEnd else .eastEnd
      let atSide : Placement := if n.corner = .se ∨ n.corner = .sw then .northSide else .southSide
      let first := a ≤ len - n.nl ∧ b ≤ wid
      let second := a ≤ len ∧ b ≤ wid - n.nw
      (first → fitIn len wid (some n) a b = some atEnd)
      ∧ (¬ first → second → fitIn len wid (some n) a b = some atSide)
      ∧ (¬ first → ¬ second → fitIn len wid (some n) a b = none)
      ∧ ∀ q, fitIn len wid (some n) a b = some q →
        (q.corner len wid a b).1 + a ≤ len ∧ (q.corner len wid a b).2 + b ≤ wid
        ∧ apart (q.corner len wid a b) a b (n.begins len wid) n.nl n.nw)
    ∧ (∀ (p : Plate) (needL needW : Nat) (turn : Bool),
      (∀ q, fitIn p.len p.wid p.notch needL needW = some q → p.fits needL needW turn = some (false, q))
      ∧ (fitIn p.len p.wid p.notch needL needW = none → turn = true →
          ∀ q, p.fits needL needW turn = some q ↔ q.1 = true ∧ fitIn p.len p.wid p.notch needW needL = some q.2)
      ∧ (fitIn p.len p.wid p.notch needL needW = none → turn = false → p.fits needL needW turn = none))
    ∧ ∀ (fl : Floor) (cfg : Tables) (grade thickness needL needW count : Nat) (rotate : Bool),
      ∀ f ∈ fl.findStock cfg grade thickness needL needW rotate count,
        f.1.grade = grade ∧ f.1.fits needL needW (rotate && (cfg.grade? grade).any Grade.rotation) = some f.2

/-! ## Plates and stock -/

/-- REGISTER_PLATE (R7, R2, R3, R6, R11, R12): the checks after the ranges in their order, and on acceptance a RAW record
with the id issued, A and M computed, pushed onto the bay; what is due at the same event follows. -/
def Obligations.RegisterPlateCreatesARawRecord : Prop :=
  ∀ (s : State) (tag bay grade thickness : Nat) (heat : Text) (len wid corner nl nw : Nat),
    let c := Instr.registerPlate tag bay grade thickness heat len wid corner nl nw
    s.onTurn c → s.hall.working → plateInRanges grade thickness heat len wid corner nl nw →
    (s.hall.fl.bay? bay = none → s.refuses c tag .unknownItem (.bay bay))
    ∧ ∀ b, s.hall.fl.bay? bay = some b →
      (s.hall.cfg.grade? grade = none → s.refuses c tag .unknownItem (.grade grade))
      ∧ ∀ g, s.hall.cfg.grade? grade = some g →
        (96 ≤ s.hall.fl.plates.length → s.refuses c tag .full .none)
        ∧ (s.hall.fl.plates.length < 96 → b.claim.isSome → s.refuses c tag .inUse (.bay bay))
        ∧ (s.hall.fl.plates.length < 96 → b.claim = none → 6 ≤ b.stack.length + b.incoming →
            s.refuses c tag .bayFull (.bay bay))
        ∧ (s.hall.fl.plates.length < 96 → b.claim = none → b.stack.length + b.incoming < 6 →
          let id := s.hall.fl.issueId
          let area := if corner = 0 then len * wid else len * wid - nl * nw
          let mass := (area * thickness * g.density + 500000000) / 1000000000
          let p : Plate :=
            { id, kind := .raw, grade, thickness, heat, len, wid, notch := notchOf corner nl nw, area, mass,
              generation := 0, parent := none, location := .bay bay (b.stack.length + 1), hold := .free,
              registeredAt := s.hall.sup.clock }
          s.accepts c tag (enc2 id ++ enc1 (b.stack.length + 1) ++ enc4 area ++ enc4 mass) fun _ w =>
            { w with
              fl := { w.fl with
                plates := Table.put Plate.id p w.fl.plates
                nextId := (if id < 65535 then id + 1 else 1)
                bays := Table.amend Bay.num bay (fun k => { k with stack := k.stack ++ [id] }) w.fl.bays }
              scan := true, examine := true })

/-- R3: the id issued is the first one that no present record holds, going up from the next-id counter and from 65535 to 1;
with at most 96 records present one is always found. -/
def Obligations.IdsAreIssuedInTurn : Prop :=
  ∀ fl : Floor, 1 ≤ fl.nextId → fl.nextId ≤ 65535 → fl.plates.length ≤ 96 →
    (∃ k ≤ 96, fl.issueId = (fl.nextId - 1 + k) % 65535 + 1 ∧ fl.plate? fl.issueId = none
      ∧ ∀ i < k, (fl.plate? ((fl.nextId - 1 + i) % 65535 + 1)).isSome)
    ∧ ∀ p : Plate, ∀ w : Work, (w.addPlate p).fl.nextId = if p.id = 65535 then 1 else if p.id < 65535 then p.id + 1 else 1

/-- RELEASE_PLATE (R9) and REMOVE_PLATE (R10): the refusals in their order, and what acceptance does. A released plate is
FREE where it lies, and a remnant LIFT_FAILED at STORE has its store asked for again (R96, R94). A removed plate is deleted and
its place emptied at the same event (R4): the plates above it in its bay move down one level (R6), a LOADED station becomes
VACANT (R45), and a close-out that waits on the remnant goes on to SKELETON (R96). -/
def Obligations.PlatesAreReleasedAndRemoved : Prop :=
  ∀ (s : State) (tag id : Nat), s.hall.working →
    (s.onTurn (.releasePlate tag id) →
      (s.hall.fl.plate? id = none → s.refuses (.releasePlate tag id) tag .unknownItem .none)
      ∧ ∀ p, s.hall.fl.plate? id = some p →
        (p.hold = .free → s.reports (.releasePlate tag id) tag [])
        ∧ (p.hold = .quarantined → s.accepts (.releasePlate tag id) tag [] (fun x w => w.releasePlate x p)
          ∧ ((∀ n, p.location ≠ .station n) → ∀ (x : Ctx) (w : Work), w.releasePlate x p = w.setHold id .free)
          ∧ ∀ (x : Ctx) (w : Work) (n : Nat) (st : Station), w.fl = s.hall.fl → s.hall.keyed → p.location = .station n →
            s.hall.fl.station? n = some st →
            (st.cond ≠ .liftFailed → w.releasePlate x p = w.setHold id .free)
            ∧ ∀ j q, st.cond = .liftFailed → s.hall.fl.leadJob n = some j → j.closeOut = some q → q.step = .store →
              q.remnant = some id → j.station = n →
              let free : Plate := { p with hold := .free }
              let fl := (w.setHold id .free).fl
              let w' := w.releasePlate x p
              (w'.fl.plate? id = some free)
              ∧ (fl.chooseSlot x.cfg free = none → w'.fl.station? n = some { st with cond := .stockFull }
                ∧ w'.out = w.out ++ [⟨x.clock, .job .stockFull j.id n (some j.state) (some id) none none⟩])
              ∧ (∀ r m t, fl.chooseSlot x.cfg free = some (r, m) → fl.freeTag = some t →
                w'.fl.station? n = some { st with cond := .none }
                ∧ w'.fl.job? j.id = some { j with closeOut := some { q with storeTag := some t } }
                ∧ ∃ k, w'.fl.move? t = some k ∧ k.origin = .job j.id ∧ k.kind = .remnantStore ∧ k.load = .plate id
                  ∧ k.pickup = some (.station n) ∧ k.drop = .slot r m ∧ k.state = .waiting))
        ∧ ((∃ j, p.hold = .reserved j ∨ p.hold = .committed j) ∨ p.hold = .missing →
          s.refuses (.releasePlate tag id) tag .notFree (.enumerated 5 p.hold.code)))
    ∧ (s.onTurn (.removePlate tag id) →
      (s.hall.fl.plate? id = none → s.refuses (.removePlate tag id) tag .unknownItem .none)
      ∧ ∀ p, s.hall.fl.plate? id = some p →
        (∀ m, s.hall.fl.moves.find? (fun m => m.load == .plate id) = some m →
          s.refuses (.removePlate tag id) tag .inUse (.move m.tag))
        ∧ ((∀ m ∈ s.hall.fl.moves, m.load ≠ .plate id) →
          ((∃ j, p.hold = .reserved j ∨ p.hold = .committed j) ∨ p.hold = .missing →
            s.refuses (.removePlate tag id) tag .notFree .none)
          ∧ ((∃ r n, p.location = .rack r n) → (p.hold = .quarantined ∨ p.hold = .free) →
            s.refuses (.removePlate tag id) tag .wrongLocation .none)
          ∧ ((∃ k, p.location = .crane k) → p.hold = .free → s.refuses (.removePlate tag id) tag .wrongLocation .none)
          ∧ (∀ n, p.location = .station n → p.hold = .free →
            (∀ st, s.hall.fl.station? n = some st → st.state ≠ .loaded) →
            s.refuses (.removePlate tag id) tag .wrongLocation .none)
          ∧ (∀ b l k, p.location = .bay b l → p.hold = .free → s.hall.fl.bay? b = some k →
            k.stack.getLast? ≠ some id → s.refuses (.removePlate tag id) tag .notTop .none)
          ∧ ((p.hold = .quarantined ∧ (∀ r n, p.location ≠ .rack r n))
              ∨ (p.hold = .free ∧ ((∃ b l k, p.location = .bay b l ∧ s.hall.fl.bay? b = some k
                    ∧ k.stack.getLast? = some id)
                  ∨ ∃ n st, p.location = .station n ∧ s.hall.fl.station? n = some st ∧ st.state = .loaded)) →
            s.accepts (.removePlate tag id) tag (enc2 id) (fun x w => w.removePlate x p)
            ∧ ∀ (x : Ctx) (w : Work), w.fl = s.hall.fl → s.hall.keyed →
              let w' := w.removePlate x p
              w'.fl.plates.map Plate.id = (s.hall.fl.plates.map Plate.id).filter (fun i => i != id)
              ∧ (∀ k, p.location = .crane k →
                  w'.fl = { s.hall.fl with plates := s.hall.fl.plates.filter fun q => q.id != id })
              ∧ (∀ b l k, p.location = .bay b l → s.hall.fl.bay? b = some k →
                w'.fl.bay? b = some { k with stack := k.stack.filter fun i => i != id }
                ∧ ∀ q, s.hall.fl.plate? q.id = some q → q.id ≠ id →
                  (∀ m, q.location = .bay b m → l < m → w'.fl.plate? q.id = some { q with location := .bay b (m - 1) })
                  ∧ ((∀ m, q.location = .bay b m → m ≤ l) → w'.fl.plate? q.id = some q))
              ∧ ∀ n st, p.location = .station n → s.hall.fl.station? n = some st →
                (st.state = .loaded → st.cond ≠ .liftFailed →
                  w'.fl.station? n = some { st with bed := none, state := .vacant, park := ⟨st.park.code, 0, .stopped⟩ })
                ∧ ∀ j q, st.cond = .liftFailed → s.hall.fl.leadJob n = some j → j.closeOut = some q → q.step = .store →
                  q.remnant = some id → j.station = n →
                  (∃ st', w'.fl.station? n = some st' ∧ st'.bed = none ∧ st'.cond ≠ .liftFailed ∧ st'.state = st.state)
                  ∧ ∃ j' q', w'.fl.job? j.id = some j' ∧ j'.closeOut = some q' ∧ q'.step = .skeleton
                    ∧ q'.remnant = some id ∧ q'.scrapped = q.scrapped ∧ q'.askel = some (j.askel q.scrapped))))

/-- PLACE_REMNANT (R32, R2): the checks after the ranges in their order, and on acceptance a REMNANT record of generation 1
in the slot: evaluated at once when the slot is sensed OCCUPIED, awaiting a decision when it is UNKNOWN. That IN_USE has detail
none for a slot in use by a verification alone is the model's choice (notes/assumptions 47). -/
def Obligations.PlaceRemnantFillsTheSlot : Prop :=
  ∀ (s : State) (tag rack slot grade thickness : Nat) (heat : Text) (len wid corner nl nw : Nat),
    let c := Instr.placeRemnant tag rack slot grade thickness heat len wid corner nl nw
    s.onTurn c → s.hall.working → plateInRanges grade thickness heat len wid corner nl nw →
    ((s.hall.cfg.rack? rack = none ∨ s.hall.fl.slot? rack slot = none) → s.refuses c tag .unknownItem .none)
    ∧ ∀ k q, s.hall.cfg.rack? rack = some k → s.hall.fl.slot? rack slot = some q →
      (s.hall.cfg.grade? grade = none → s.refuses c tag .unknownItem (.grade grade))
      ∧ ∀ g, s.hall.cfg.grade? grade = some g →
        (96 ≤ s.hall.fl.plates.length → s.refuses c tag .full .none)
        ∧ (s.hall.fl.plates.length < 96 →
          (∀ p, q.register = some p → s.refuses c tag .inUse (.plate p))
          ∧ (∀ t, q.register = none → (q.transfer = .inbound t ∨ q.transfer = .outbound t) →
              s.refuses c tag .inUse (.move t))
          ∧ (∀ t, q.register = none → (∀ u, q.transfer ≠ .inbound u ∧ q.transfer ≠ .outbound u) →
              s.hall.fl.claimant rack slot = some t →
              s.refuses c tag .inUse (.move t))
          ∧ (q.register = none → (q.transfer = .verifyIn ∨ q.transfer = .verifyOut) →
              s.hall.fl.claimant rack slot = none → s.refuses c tag .inUse .none)
          ∧ (q.register = none → q.transfer = .none → s.hall.fl.claimant rack slot = none →
            let id := s.hall.fl.issueId
            let area := if corner = 0 then len * wid else len * wid - nl * nw
            let mass := (area * thickness * g.density + 500000000) / 1000000000
            let p : Plate :=
              { id, kind := .remnant, grade, thickness, heat, len, wid, notch := notchOf corner nl nw, area, mass,
                generation := 1, parent := none, location := .rack rack slot, hold := .free,
                registeredAt := s.hall.sup.clock }
            (k.maxL < len → s.refuses c tag .plateTooLarge (.number k.maxL))
            ∧ (len ≤ k.maxL → k.maxW < wid → s.refuses c tag .plateTooLarge (.number k.maxW))
            ∧ (len ≤ k.maxL → wid ≤ k.maxW → k.maxMass < mass → s.refuses c tag .plateTooLarge (.number k.maxMass))
            ∧ (len ≤ k.maxL → wid ≤ k.maxW → mass ≤ k.maxMass →
              (q.sensed = .empty → s.refuses c tag .sensedEmpty .none)
              ∧ (q.sensed = .occupied → s.accepts c tag (enc2 id ++ enc4 area ++ enc4 mass) fun x w =>
                  ((w.addPlate p).onSlot rack slot fun z => { z with register := some id }).evaluateSlot x rack slot
                    .placeRemnant)
              ∧ (q.sensed = .unknown → s.accepts c tag (enc2 id ++ enc4 area ++ enc4 mass) fun _ w =>
                  (w.addPlate p).onSlot rack slot fun z =>
                    { z with register := some id, transfer := .verifyIn, candidate := none, agree := 0 }))))

/-- RECONCILE_SLOT (R33, R34): ACCEPT_EMPTY deletes the missing plate and evaluates the slot, RECHECK asks for the slot to
be decided afresh, ACCEPT_OBJECT is refused in every slot state and any other action is out of range. The detail item of
ACCEPT_OBJECT, "the action", is the model's choice (notes/assumptions 15). -/
def Obligations.SlotsAreReconciled : Prop :=
  ∀ (s : State) (tag rack slot : Nat), s.hall.working →
    (s.onTurn (.acceptEmpty tag rack slot) →
      (s.hall.fl.slot? rack slot = none → s.refuses (.acceptEmpty tag rack slot) tag .unknownItem .none)
      ∧ ∀ q, s.hall.fl.slot? rack slot = some q →
        (q.dispute ≠ .missingPlate →
          s.refuses (.acceptEmpty tag rack slot) tag .notAccepted (.enumerated 7 q.dispute.code))
        ∧ ∀ p, q.dispute = .missingPlate → q.register = some p →
          (∀ m, s.hall.fl.moves.find? (fun m => m.load == .plate p) = some m →
            s.refuses (.acceptEmpty tag rack slot) tag .inUse (.move m.tag))
          ∧ ((∀ m ∈ s.hall.fl.moves, m.load ≠ .plate p) →
            s.accepts (.acceptEmpty tag rack slot) tag (enc2 p) fun x w =>
              (w.deletePlate p).evaluateSlot x rack slot .acceptEmpty))
    ∧ (s.onTurn (.recheck tag rack slot) →
      (s.hall.fl.slot? rack slot = none → s.refuses (.recheck tag rack slot) tag .unknownItem .none)
      ∧ ∀ q, s.hall.fl.slot? rack slot = some q →
        (∀ t, (q.transfer = .inbound t ∨ q.transfer = .outbound t) →
          s.refuses (.recheck tag rack slot) tag .inMotion (.move t))
        ∧ ((∀ t, q.transfer ≠ .inbound t ∧ q.transfer ≠ .outbound t) →
          s.accepts (.recheck tag rack slot) tag [] fun _ w =>
            w.onSlot rack slot fun z => { z with candidate := none, agree := 0, recheck := true }))
    ∧ (s.onTurn (.acceptObject tag rack slot 3) →
        s.refuses (.acceptObject tag rack slot 3) tag .notAccepted (.enumerated 0 3))
    ∧ ∀ a, a ≠ 3 → s.onTurn (.acceptObject tag rack slot a) →
        s.refuses (.acceptObject tag rack slot a) tag .outOfRange (.field 3)

/-! ## Stations, templates and counters -/

/-- STATION_HOLD and STATION_RESUME (R53, R51) and CONSUMABLES_CHANGED (R55): the refusals, the reason added or removed, and
the hold set in the reply. A reason added to a station that works holds it at once, or when its entry ends. A reason removed
takes away itself alone (R52): while others remain the station stays as it is; with the set empty a HELD station resumes by its
phase and orders its next entry, a HOLD_PENDING one goes on with its entry, any other keeps its state, and a READY job is
handed to it. HOST leaves at STATION_RESUME; at CONSUMABLES_CHANGED the wear becomes 0, CONSUMABLES leaves, and a HELD station
gets HOST. -/
def Obligations.StationsAreHeldAndResumed : Prop :=
  (∀ (s : State) (tag n : Nat), s.hall.sup.state ≠ .setup → s.hall.keyed →
    (s.hall.fl.station? n = none →
      (s.onTurn (.stationHold tag n) → s.refuses (.stationHold tag n) tag .unknownItem .none)
      ∧ (s.onTurn (.stationResume tag n) → s.refuses (.stationResume tag n) tag .unknownItem .none)
      ∧ (s.onTurn (.consumablesChanged tag n) → s.refuses (.consumablesChanged tag n) tag .unknownItem .none))
    ∧ ∀ st, s.hall.fl.station? n = some st →
      (s.onTurn (.stationHold tag n) →
        s.accepts (.stationHold tag n) tag [] (fun x w => w.addReason x n .host)
        ∧ ∀ (x : Ctx) (w : Work), w.fl = s.hall.fl →
          (st.hold.host = true → w.addReason x n .host = w)
          ∧ (st.hold.host = false → ∃ st' : Station, (w.addReason x n .host).fl.station? n = some st'
            ∧ st'.hold = { st.hold with host := true } ∧ st'.entry = st.entry ∧ st'.bed = st.bed ∧ st'.job = st.job
            ∧ st'.wear = st.wear ∧ st'.state =
              if st.state = .marking ∨ st.state = .burning then
                (if st.entry.isSome then StationState.holdPending else .held)
              else st.state))
      ∧ (s.onTurn (.stationResume tag n) →
        let r := s.hall.onFloor [] fun x w => w.removeReason x n .host
        s.answers (.stationResume tag n) tag
          (.accepted (enc1 (((r.1.fl.station? n).map fun z => z.hold.bits).getD 0))) r.1 r.2
        ∧ ∀ (x : Ctx) (w : Work), w.fl = s.hall.fl →
          (st.hold.host = false → w.removeReason x n .host = w)
          ∧ ∃ st', (w.removeReason x n .host).fl.station? n = some st' ∧ st'.hold.host = false)
      ∧ (s.onTurn (.consumablesChanged tag n) →
        (∀ e, st.entry = some e → s.refuses (.consumablesChanged tag n) tag .active (.entry e.index))
        ∧ (st.entry = none →
          let r := s.hall.onFloor [] fun x w => w.consumablesChanged x n
          s.answers (.consumablesChanged tag n) tag
            (.accepted (enc1 (((r.1.fl.station? n).map fun z => z.hold.bits).getD 0))) r.1 r.2
          ∧ ∀ (x : Ctx) (w : Work), w.fl = s.hall.fl →
            let w' := w.consumablesChanged x n
            let left : HoldSet := { st.hold with consumables := false }
            (st.state = .held →
              w'.fl.station? n = some { st with wear := 0, hold := { left with host := true } })
            ∧ (st.state ≠ .held → st.hold.consumables = false ∨ left ≠ {} →
              w'.fl.station? n = some { st with wear := 0, hold := left })
            ∧ (st.state ≠ .held → st.hold.consumables = true → left = {} →
              w' = (w.onStation n fun z => { z with wear := 0 }).removeReason x n .consumables))))
  ∧ ∀ (x : Ctx) (w : Work) (n : Nat) (r : HoldReason) (st : Station), w.fl.keyed → w.fl.station? n = some st →
    st.hold.has r = true →
    let left := st.hold.set r false
    let w' := w.removeReason x n r
    let told : Work := (w.onStation n fun z => { z with hold := z.hold.set r false }).note x
      (.station .reasonRemoved n st.state left (some r) st.job st.fault st.cond)
    let back := fun (p : Phase) => match p with | .mark => StationState.marking | .burn => .burning
    let stopped : Timer := ⟨st.park.code, 0, .stopped⟩
    (∀ q, left.has q = if q = r then false else st.hold.has q)
    ∧ (left ≠ {} → w' = told)
    ∧ (∀ p, left = {} → st.state = .holdPending → st.phase = some p →
        w'.fl.station? n = some { st with hold := {}, state := back p, park := stopped })
    ∧ (∀ j i, left = {} → st.state = .held → st.phase = some .burn → st.job.bind w.fl.job? = some j →
        nextBurn j.entries = some i → st.outbox = [] → st.parked = false → st.wear < x.wearLimit n → x.hall ≠ .frozen →
        ∀ node k, w.fl.node? (x.stationAddress n) = some node → node.orders.length < 4 → node.nextNumber = some k →
        w'.fl.station? n = some { st with
          hold := {}, state := .burning, park := stopped, entry := some ⟨i, .burn, k, false, [], []⟩ }
        ∧ ∃ node', w'.fl.node? (x.stationAddress n) = some node'
          ∧ node'.orders = node.orders ++ [⟨w.fl.burnOrder st j i, k, false⟩])
    ∧ (∀ j p o, left = {} → st.state = .held → st.phase = some p → st.job.bind w.fl.job? = some j →
        ((∃ i, p = .mark ∧ nextMark j.entries = some i ∧ o = .mark i [])
          ∨ ∃ i, p = .burn ∧ nextBurn j.entries = some i ∧ o = w.fl.burnOrder st j i) →
        st.outbox = [] → st.parked = false →
        (∀ node, w.fl.node? (x.stationAddress n) = some node → node.hasRoom = false) →
        w'.fl.station? n = some { st with hold := {}, state := back p, park := stopped, outbox := [o] })
    ∧ (left = {} → st.state ≠ .held → st.state ≠ .holdPending →
        (∀ j, w.fl.leadJob n = some j → w' = told.handJob x j.id) ∧ (w.fl.leadJob n = none → w' = told))

/-- DEFINE_TEMPLATE (R64, R65): outside FROZEN, with the fields in their ranges, a counter named twice is refused DUPLICATE,
a template that a job references IN_USE with the lowest such job, a width above 32 TEMPLATE_TOO_LONG; else a field count of 0
deletes the template and any other defines it whole. That field i of the list is field 2 + i of the body, as the detail of
DUPLICATE names it, is the model's choice (notes/assumptions 12). -/
def Obligations.TemplatesAreDefinedAndDeleted : Prop :=
  ∀ (s : State) (tag id : Nat) (raw : List RawField) (fields : List Field),
    let c := Instr.defineTemplate tag id raw.length raw
    let counters := fields.filterMap Field.counter?
    let width := (fields.map (Field.worstWidth fun k => ((s.hall.fl.counter? k).map fun z => z.width.getD 8).getD 8)).sum
    let referenced := fun (j : Job) => j ∈ s.hall.fl.jobs ∧ ∃ e ∈ j.entries, e.kind = .part ∧ e.template = id
    s.onTurn c → s.hall.sup.state ≠ .frozen → 1 ≤ id → id ≤ 16 → raw.length ≤ 6 → raw.map fieldOf = fields.map some →
    (∀ (before after : List Field) (m : Nat), fields = before ++ Field.serial m :: after →
      (before.filterMap Field.counter?).Nodup → m ∈ before.filterMap Field.counter? →
      s.refuses c tag .duplicate (.field (2 + (before.length + 1))))
    ∧ (counters.Nodup →
      (∀ j, referenced j → (∀ k, referenced k → j.id ≤ k.id) → s.refuses c tag .inUse (.job j.id))
      ∧ ((∀ j, ¬ referenced j) →
        (32 < width → s.refuses c tag .templateTooLong (.number width))
        ∧ (width ≤ 32 → s.answers c tag (.accepted (enc1 id ++ enc1 width))
          { s.hall with templates :=
              (if raw.length = 0 then s.hall.templates.filter fun t => t.id != id
               else Table.put Template.id ⟨id, fields⟩ s.hall.templates) } [])))

/-- SET_COUNTER (R71, R72, R70): outside FROZEN, with the fields in their ranges, a next not above the last issued value is
refused COUNTER_BACKWARDS, a width that carries a template above 32 TEMPLATE_TOO_LONG; else the counter takes width and next,
is not exhausted, keeps its last value and draw, and SERIAL_EXHAUSTED leaves every station held on it (R52), which no longer
names it; no station is left held on it unless a new draw has exhausted it again. That the reply and the SERIAL notice show the
counter as it was set, before the released stations draw again, is the model's choice (notes/assumptions 28). -/
def Obligations.CountersAreSetForward : Prop :=
  ∀ (s : State) (tag id width next : Nat) (k : Counter),
    let c := Instr.setCounter tag id width next
    let k' : Counter := { k with width := some width, next := some next, exhausted := false }
    let on := (s.hall.fl.stations.filter fun st => st.exhausted == some id).map Station.num
    s.onTurn c → s.hall.sup.state ≠ .frozen → 1 ≤ id → id ≤ 8 → 1 ≤ width → width ≤ 8 → next < 10 ^ width →
    s.hall.fl.counter? id = some k →
    (∀ l, k.last = some l → next ≤ l → s.refuses c tag .counterBackwards (.number l))
    ∧ ((∀ l, k.last = some l → l < next) →
      (∀ t, s.hall.templateOver id width = some t → s.refuses c tag .templateTooLong (.template t))
      ∧ (s.hall.templateOver id width = none →
        s.accepts c tag (k'.encode ++ encList enc1 on) (fun x w => w.setCounter x id width next)
        ∧ (s.hall.keyed → ∀ (x : Ctx) (w : Work), w.fl = s.hall.fl →
          let w' := w.setCounter x id width next
          (w.onCounter id (Counter.reset width next)).fl.counter? id = some k'
          ∧ w'.out.getLast? = some ⟨x.clock, .serial (.set on) k'⟩
          ∧ ((∀ st ∈ s.hall.fl.stations, st.exhausted = some id → ∃ r, r ≠ .serialExhausted ∧ st.hold.has r = true) →
            w'.fl.counter? id = some k'
            ∧ w'.fl = { s.hall.fl with
              counters := s.hall.fl.counters.map (fun q => if q.id = id then k' else q)
              stations := s.hall.fl.stations.map fun st =>
                if st.exhausted = some id then
                  { st with exhausted := none, hold := { st.hold with serialExhausted := false } }
                else st })
          ∧ ∀ st ∈ w'.fl.stations, st.exhausted = some id → ∃ q, w'.fl.counter? id = some q ∧ q.exhausted = true)))

/-! ## Jobs -/

/-- ADMIT_JOB (R80, R81, R16, R67): with every field in its range the checks run in their order, and an admission that passes
them queues the job at the tail of its station's queue, its entries PENDING, its plate RESERVED and its reservation timer
started; what is due at the same event follows. Where the sum of check 9 needs more than four bytes its detail is a free
value (notes/assumptions 24). -/
def Obligations.AdmissionsAreCheckedAndQueued : Prop :=
  ∀ (s : State) (tag job station plate nest policy expedite code declared len wid corner nl nw : Nat)
      (entries : List RawEntry) (lim : Limits),
    let c := Instr.admitJob tag job station plate nest policy expedite code entries.length declared len wid corner nl nw
      entries
    let h := s.hall
    let parts := entries.filter fun e => e.kind == 0
    let remnant := if declared = 0 then 0 else if corner = 0 then len * wid else len * wid - nl * nw
    let sum := (entries.map RawEntry.area).sum + remnant
    let usable := fun (id : Nat) => id = 0 ∨ ∃ t, Table.get Template.id id h.templates = some t ∧
      ∀ k, Field.serial k ∈ t.fields → ∃ q, h.fl.counter? k = some q ∧ q.width ≠ none
    let listOk := 1 ≤ entries.length ∧ entries.length ≤ 48
      ∧ ((declared = 0 ∧ ∀ e ∈ entries, e.kind = 0)
        ∨ (declared = 1 ∧ ∃ ps sep, entries = ps ++ [sep] ∧ sep.kind = 1 ∧ ∀ e ∈ ps, e.kind = 0))
      ∧ (∀ e ∈ parts, usable e.template) ∧ (parts.map fun e => e.partNo.length).sum ≤ 384
    s.onTurn c → h.working → h.cfg.limits = some lim → 1 ≤ job → job ≤ 65535 → 1 ≤ station → station ≤ 4 → policy ≤ 1 →
    expedite ≤ 1 → declared ≤ 1 →
    (declared = 1 → 200 ≤ len ∧ len ≤ 24000 ∧ 200 ≤ wid ∧ wid ≤ 4800 ∧ corner ≤ 4
      ∧ (corner ≠ 0 → 100 ≤ nl ∧ nl + 100 ≤ len ∧ 100 ≤ nw ∧ nw + 100 ≤ wid)) →
    (∀ e ∈ entries, RawEntry.inRanges e) →
    ((h.fl.job? job).isSome → s.refuses c tag .duplicate (.job job))
    ∧ (h.fl.job? job = none →
      (h.cfg.station? station = none → s.refuses c tag .unknownItem (.station station))
      ∧ ∀ b, h.cfg.station? station = some b →
        (4 ≤ (h.fl.jobs.filter fun j => j.station == station).length → s.refuses c tag .full (.station station))
        ∧ ((h.fl.jobs.filter fun j => j.station == station).length < 4 →
          (¬ listOk → ∃ i, s.refuses c tag .badList (.entry i))
          ∧ ((entries.length = 0 ∨ 48 < entries.length) → s.refuses c tag .badList (.entry 0))
          ∧ (listOk →
            (h.fl.plate? plate = none → s.refuses c tag .unknownItem (.plate plate))
            ∧ ∀ p, h.fl.plate? plate = some p →
              (p.hold ≠ .free → s.refuses c tag .notFree (.enumerated 5 p.hold.code))
              ∧ (p.hold = .free →
                let misplaced := (∃ k, p.location = .crane k)
                  ∨ ∃ n, p.location = .station n ∧ (n ≠ station ∨ ∃ st, h.fl.station? n = some st ∧ st.state = .clearing)
                (misplaced → s.refuses c tag .wrongLocation p.location.detail)
                ∧ (¬ misplaced →
                  (b.bedL < p.len → s.refuses c tag .plateTooLarge (.number b.bedL))
                  ∧ (p.len ≤ b.bedL → b.bedW < p.wid → s.refuses c tag .plateTooLarge (.number b.bedW))
                  ∧ (p.len ≤ b.bedL → p.wid ≤ b.bedW → b.maxT < p.thickness →
                      s.refuses c tag .plateTooLarge (.number b.maxT))
                  ∧ (p.len ≤ b.bedL → p.wid ≤ b.bedW → p.thickness ≤ b.maxT →
                    (p.area < sum → s.refuses c tag .areaExceedsPlate
                      (.number (if sum < 4294967296 then sum else Config.wideSum sum)))
                    ∧ (sum ≤ p.area →
                      let liftable := p.location = .station station
                        ∨ ∃ k ∈ h.cfg.cranes, p.mass ≤ min (k.swl - k.tare) (kmag k p.thickness (h.cfg.factor p.grade))
                      (declared = 1 → p.len < len → s.refuses c tag .remnantOutsidePlate (.number len))
                      ∧ (declared = 1 → len ≤ p.len → p.wid < wid → s.refuses c tag .remnantOutsidePlate (.number wid))
                      ∧ (declared = 1 → len ≤ p.len → wid ≤ p.wid → min len wid < lim.minSide →
                          s.refuses c tag .remnantBelowMinimum (.number (min len wid)))
                      ∧ (declared = 1 → len ≤ p.len → wid ≤ p.wid → lim.minSide ≤ min len wid →
                          remnant < lim.minArea * 10000 → s.refuses c tag .remnantBelowMinimum (.number remnant))
                      ∧ ((declared = 1 → len ≤ p.len ∧ wid ≤ p.wid ∧ lim.minSide ≤ min len wid
                            ∧ lim.minArea * 10000 ≤ remnant) →
                        (¬ liftable → s.refuses c tag .notLiftable (.number p.mass))
                        ∧ (liftable →
                          let d : Option RemnantDecl :=
                            if declared = 0 then none
                            else some ⟨len, wid, notchOf corner nl nw, remnant,
                              massOf remnant p.thickness (h.cfg.density p.grade)⟩
                          let j : Job :=
                            { id := job, station, plate, area := p.area, thickness := p.thickness, grade := p.grade,
                              mass := p.mass, nest, policy := if policy = 0 then .stop else .skip,
                              expedite := expedite == 1, timer := ⟨code, durationMs code, .running⟩
                              entries := entries.map fun e =>
                                (if e.kind = 1 then ⟨.separation, [], 0, e.area, e.pierces, .pending⟩
                                 else ⟨.part, e.partNo, e.template, e.area, e.pierces, .pending⟩)
                              remnant := d, state := .queued, stagingTag := none, cancelPending := false,
                              firstFailure := none, closeOut := none, admittedAt := h.sup.clock }
                          s.accepts c tag
                            (enc2 job ++ enc1 ((h.fl.jobs.filter fun j => j.station == station).length + 1)
                              ++ enc4 p.area ++ enc4 p.mass ++ encOpt4 (d.map RemnantDecl.area)
                              ++ encOpt4 (d.map RemnantDecl.mass))
                            (fun x w => w.enterJob x j)
                          ∧ ∀ (x : Ctx) (w : Work), w.fl = h.fl →
                              (w.enterJob x j).fl = { h.fl with
                                jobs := h.fl.jobs ++ [j]
                                plates := (Table.amend Plate.id plate (fun q => { q with hold := .reserved job })
                                  h.fl.plates) }
                              ∧ (w.enterJob x j).out = w.out ++
                                  [⟨x.clock, .job .admitted job station (some .queued) none none none⟩]
                              ∧ (w.enterJob x j).examine = true)))))))))

/-- CANCEL_JOB (R89) and CANCEL_MOVE (R110): what each does by the state of the job or the host move, and what each
refuses. The reply bytes "done" 0 and "deferred" 1 are the model's choice (notes/assumptions 12). -/
def Obligations.CancellationsFollowTheState : Prop :=
  ∀ (s : State) (tag n : Nat), s.hall.working →
    (s.onTurn (.cancelJob tag n) →
      (s.hall.fl.job? n = none → s.refuses (.cancelJob tag n) tag .unknownItem .none)
      ∧ ∀ j, s.hall.fl.job? n = some j →
        let waiting := fun t => j.stagingTag = some t ∧ ∃ m, s.hall.fl.move? t = some m ∧ m.state = .waiting
        ((j.state = .queued ∨ j.state = .ready) →
          s.accepts (.cancelJob tag n) tag [0] (fun x w => (w.setHold j.plate .free).closeJob x n .cancelled none))
        ∧ (∀ t, j.state = .staging → waiting t → j.cancelPending = false → s.accepts (.cancelJob tag n) tag [0]
            (fun x w => ((w.deleteMove x t).setHold j.plate .free).closeJob x n .cancelled none))
        ∧ (j.state = .staging → (∀ t, ¬ waiting t) → j.cancelPending = false → s.accepts (.cancelJob tag n) tag [1]
            (fun x w => (w.onJob n fun k => { k with cancelPending := true }).noteJob x n .cancelDeferred none none))
        ∧ (j.state = .staging → j.cancelPending = true → s.reports (.cancelJob tag n) tag [1])
        ∧ (j.state = .closing → ∀ q, j.closeOut = some q →
            s.refuses (.cancelJob tag n) tag .closing (.enumerated 15 q.step.code))
        ∧ (∀ st, j.state = .active → s.hall.fl.station? j.station = some st →
            (st.state = .held → s.accepts (.cancelJob tag n) tag [0] (fun x w => w.endJob x n .cancelled))
            ∧ (st.state ≠ .held → s.refuses (.cancelJob tag n) tag .active (.enumerated 9 st.state.code)))
        ∧ ∀ (x : Ctx) (w : Work), w.fl = s.hall.fl →
            (w.closeJob x n .cancelled none).fl =
              { s.hall.fl with jobs := s.hall.fl.jobs.filter fun k => k.id != n })
    ∧ (s.onTurn (.cancelMove tag n) → n ≤ 31 →
      (s.hall.fl.move? n = none → s.refuses (.cancelMove tag n) tag .unknownItem .none)
      ∧ ∀ m, s.hall.fl.move? n = some m →
        (∀ j, m.origin = .job j → s.refuses (.cancelMove tag n) tag .jobOwned .none)
        ∧ (m.origin = .yield → s.refuses (.cancelMove tag n) tag .inMotion .none)
        ∧ (m.origin = .host → m.state = .waiting →
          s.accepts (.cancelMove tag n) tag [] (fun x w => w.deleteMove x n)
          ∧ ∀ (x : Ctx) (w : Work), w.fl = s.hall.fl → (w.deleteMove x n).fl =
              { s.hall.fl with moves := s.hall.fl.moves.filter fun k => k.tag != n })
        ∧ (m.origin = .host → m.state = .bound →
          s.accepts (.cancelMove tag n) tag [] (fun x w => (w.unbind x n).deleteMove x n)
          ∧ ∀ (x : Ctx) (w : Work), w.fl = s.hall.fl → ((w.unbind x n).deleteMove x n).fl.move? n = none)
        ∧ (m.origin = .host → ((∃ p, m.state = .phase p) ∨ ∃ p q, m.state = .suspended p q) →
          s.refuses (.cancelMove tag n) tag .inMotion (.enumerated 19 m.state.code)))

/-- SCRAP_REMNANT (R95) and SKELETON_MANUAL (R98): the refusals in their order, and what acceptance does to the job in
close-out: the remnant given up and SKELETON begun, or the skeleton gone by other means and END reached. The detail at a
station with no job in close-out, a step that is absent (255), is the model's choice (notes/assumptions 31). -/
def Obligations.CloseOutsAreEndedByTheHost : Prop :=
  ∀ (s : State) (tag n : Nat), s.hall.working →
    let inHands := fun (t : Option Nat) (k : Nat) =>
      t = some k ∧ ∃ m, s.hall.fl.move? k = some m ∧ m.state ≠ .waiting
    let free := fun (t : Option Nat) => ∀ k m, t = some k → s.hall.fl.move? k = some m → m.state = .waiting
    let gone := fun (x : Ctx) (t : Option Nat) (w : Work) => (t.map fun k => w.deleteMove x k).getD w
    (s.hall.cfg.station? n = none →
      (s.onTurn (.scrapRemnant tag n) → s.refuses (.scrapRemnant tag n) tag .unknownItem .none)
      ∧ (s.onTurn (.skeletonManual tag n) → s.refuses (.skeletonManual tag n) tag .unknownItem .none))
    ∧ ∀ b, s.hall.cfg.station? n = some b →
      (∀ j q, s.hall.fl.leadJob n = some j → j.closeOut = some q →
        (s.onTurn (.scrapRemnant tag n) →
          (q.step ≠ .store → s.refuses (.scrapRemnant tag n) tag .notAccepted (.enumerated 15 q.step.code))
          ∧ ∀ st r, q.step = .store → q.remnant = some r → s.hall.fl.station? n = some st →
            (st.bed ≠ some r → s.refuses (.scrapRemnant tag n) tag .notAccepted (.enumerated 15 q.step.code))
            ∧ (∀ k, st.bed = some r → inHands q.storeTag k → s.refuses (.scrapRemnant tag n) tag .inMotion (.move k))
            ∧ (st.bed = some r → free q.storeTag →
              s.accepts (.scrapRemnant tag n) tag (enc2 r) fun x w =>
                ((((gone x q.storeTag w).deletePlate r).onCloseOut j.id fun c =>
                    { c with scrapped := true, remnant := none }).setCond j.station .none).beginSkeleton x j.id))
        ∧ (s.onTurn (.skeletonManual tag n) →
          (q.step ≠ .skeleton → s.refuses (.skeletonManual tag n) tag .notAccepted (.enumerated 15 q.step.code))
          ∧ (∀ k, q.step = .skeleton → inHands q.skelTag k →
              s.refuses (.skeletonManual tag n) tag .inMotion (.move k))
          ∧ (q.step = .skeleton → free q.skelTag →
            s.accepts (.skeletonManual tag n) tag [] fun x w =>
              ((gone x q.skelTag w).onCloseOut j.id fun c => { c with skelTag := none, manual := true }).closeOutEnd x
                j.id)))
      ∧ ((∀ j, s.hall.fl.leadJob n = some j → j.closeOut = none) →
        (s.onTurn (.scrapRemnant tag n) → s.refuses (.scrapRemnant tag n) tag .notAccepted (.enumerated 15 255))
        ∧ (s.onTurn (.skeletonManual tag n) → s.refuses (.skeletonManual tag n) tag .notAccepted (.enumerated 15 255)))

/-! ## Moves and cranes -/

/-- SUBMIT_MOVE (R109): with the fields in their ranges and a drop of the kind's, the checks run in their order, and a move
that passes them enters the queue WAITING under its tag, its wait timer started; a scan follows. -/
def Obligations.MovesAreCheckedAndSubmitted : Prop :=
  ∀ (s : State) (tag move kind plate dropKind dropFirst dropSecond expedite wait : Nat) (k : MoveKind) (drop : Place),
    let c := Instr.submitMove tag move kind plate dropKind dropFirst dropSecond expedite wait
    let h := s.hall
    s.onTurn c → h.working → move ≤ 15 → expedite ≤ 1 →
    ((kind = 4 ∧ k = .remnantScrap ∧ dropKind = 4 ∧ drop = .scrap)
      ∨ (kind = 5 ∧ k = .rackTransfer ∧ dropKind = 2 ∧ drop = .slot dropFirst dropSecond)
      ∨ (kind = 6 ∧ k = .bayTransfer ∧ dropKind = 1 ∧ drop = .bay dropFirst)) →
    (∀ p, h.fl.plate? plate = some p → p.location.place ≠ some drop) →
    (∀ m, h.fl.move? move = some m → s.refuses c tag .tagInUse .none)
    ∧ (h.fl.move? move = none →
      (h.fl.plate? plate = none → s.refuses c tag .unknownItem .none)
      ∧ (∀ r n, drop = .slot r n → h.fl.slot? r n = none → s.refuses c tag .unknownItem .none)
      ∧ (∀ b, drop = .bay b → h.fl.bay? b = none → s.refuses c tag .unknownItem .none)
      ∧ ∀ p, h.fl.plate? plate = some p → (∀ r n, drop = .slot r n → h.fl.slot? r n ≠ none) →
        (∀ b, drop = .bay b → h.fl.bay? b ≠ none) →
        (∀ m, h.fl.moves.find? (fun m => m.load == .plate plate) = some m → s.refuses c tag .inUse (.move m.tag))
        ∧ ((∀ m ∈ h.fl.moves, m.load ≠ .plate plate) →
          let held := p.hold = .missing ∨ (p.hold = .quarantined ∧ k ≠ .remnantScrap)
            ∨ ((∃ j, p.hold = .reserved j ∨ p.hold = .committed j) ∧ k = .remnantScrap)
          let lies := (∃ r n, p.location = .rack r n ∧ k ≠ .bayTransfer)
            ∨ ∃ b l, p.location = .bay b l ∧ k ≠ .rackTransfer
          (held → s.refuses c tag .notFree .none)
          ∧ (¬ held → ¬ lies → s.refuses c tag .wrongLocation .none)
          ∧ (¬ held → lies → ∀ r n q, drop = .slot r n → h.cfg.rack? r = some q →
            (q.maxL < p.len → s.refuses c tag .plateTooLarge (.number q.maxL))
            ∧ (p.len ≤ q.maxL → q.maxW < p.wid → s.refuses c tag .plateTooLarge (.number q.maxW))
            ∧ (p.len ≤ q.maxL → p.wid ≤ q.maxW → q.maxMass < p.mass → s.refuses c tag .plateTooLarge (.number q.maxMass)))
          ∧ (¬ held → lies →
            (∀ r n q, drop = .slot r n → h.cfg.rack? r = some q → p.len ≤ q.maxL ∧ p.wid ≤ q.maxW ∧ p.mass ≤ q.maxMass) →
            let able := fun (q : CraneCfg) =>
              (∀ a, p.location.place.bind h.cfg.placeAt = some a → q.limitMin ≤ a ∧ a ≤ q.limitMax)
              ∧ (∃ a, h.cfg.placeAt drop = some a ∧ q.limitMin ≤ a ∧ a ≤ q.limitMax)
              ∧ p.mass ≤ min (q.swl - q.tare) (kmag q p.thickness (h.cfg.factor p.grade))
            ((∀ q ∈ h.cfg.cranes, ¬ able q) → s.refuses c tag .notLiftable .none)
            ∧ ((∃ q ∈ h.cfg.cranes, able q) →
              let m : Move :=
                { tag := move, origin := .host, kind := k, load := .plate plate, pickup := p.location.place, drop,
                  expedite := expedite == 1, wait := ⟨wait, durationMs wait, .running⟩, submitted := h.sup.clock,
                  crane := none, state := .waiting, causedYield := none, waitingFor := none, expired := false }
              s.accepts c tag (enc1 move) fun _ w =>
                { w with fl := { w.fl with moves := w.fl.moves ++ [m] }, scan := true }))))

/-- RESTORE_CRANE (R130) and RUNWAY_RESUME (R122): the refusals in their order, and what acceptance does. That one CRANE
notice tells of the runway, showing the lowest-numbered crane, is the model's choice (notes/assumptions 18), and so is the
detail kind of the fault code (notes/assumptions 78). -/
def Obligations.CranesAreRestoredAndTheRunwayResumes : Prop :=
  ∀ (s : State) (tag n : Nat),
    let h := s.hall
    (s.onTurn (.restoreCrane tag n) → h.working →
      (h.fl.crane? n = none → s.refuses (.restoreCrane tag n) tag .unknownItem .none)
      ∧ ∀ k, h.fl.crane? n = some k →
        ((k.health = .normal ∨ k.health = .offline) →
          s.refuses (.restoreCrane tag n) tag .notAccepted (.enumerated 21 k.health.code))
        ∧ ((k.health = .degraded ∨ k.health = .faulted) →
          (k.up = false → s.refuses (.restoreCrane tag n) tag .notAccepted (.enumerated 24 1))
          ∧ (∀ f, k.up = true → k.health = .faulted → k.cleared = false → k.fault = some f →
            s.refuses (.restoreCrane tag n) tag .notAccepted (.number f))
          ∧ (k.up = true → (k.health = .faulted → k.cleared = true ∨ k.fault = none) →
            (h.ctx.within k = false → s.refuses (.restoreCrane tag n) tag .breachPersists .none)
            ∧ (h.ctx.within k = true →
              s.accepts (.restoreCrane tag n) tag [] (fun x w => w.restore x n)
              ∧ ∀ (x : Ctx) (w : Work), w.fl = h.fl → k.bound = none →
                (w.restore x n).fl.crane? n = some { k with
                  fault := none, cleared := false, good := 0, fresh := true, health := .normal }
                ∧ (w.restore x n).scan = true
                ∧ (w.restore x n).out = w.out ++ [⟨x.clock, .crane .health n .normal k.position k.grant⟩]))))
    ∧ (s.onTurn (.runwayResume tag) → (h.sup.state = .run ∨ h.sup.state = .holding ∨ h.sup.state = .held) →
      (h.fl.runwayStopped = false → s.reports (.runwayResume tag) tag [])
      ∧ (h.fl.runwayStopped = true →
        (∀ k, h.fl.cranes.find? (fun k => !h.ctx.within k) = some k →
          s.refuses (.runwayResume tag) tag .breachPersists (.crane k.num))
        ∧ ((∀ k ∈ h.fl.cranes, h.ctx.within k = true) →
          s.accepts (.runwayResume tag) tag [] (fun x w => w.resumeRunway x)
          ∧ (h.keyed → ∀ (x : Ctx) (w : Work), w.fl = h.fl →
            (w.resumeRunway x).fl.runwayStopped = false ∧ (w.resumeRunway x).scan = true
            ∧ (∀ k ∈ (w.resumeRunway x).fl.cranes, k.stopBreach = false)
            ∧ ∀ m ∈ (w.resumeRunway x).fl.moves, ∀ p q, m.state = .suspended p q → q.breach = false))))
    ∧ ∀ (x : Ctx) (k : Crane), x.within k = true ↔ ∀ g p, k.grant = some g → k.position = some p →
        g.lo ≤ p - x.halfSpan k.num ∧ min x.cfg.runwayLength (p + x.halfSpan k.num) ≤ g.hi

/-! ## Timer expiries -/

/-- RESERVATION_EXPIRED (R40): the plate FREE and the job closed LAPSED. PARK_TIMER_EXPIRED (R56): PARK produced unless the
station is parked, and handed to its node. MOVE_WAIT_EXPIRED (R111): a WAITING move fails WAIT_EXPIRED, a BOUND one is marked.
Each of them only from a timer that runs with a code other than 0 (R20), which none does while the hall is FROZEN: an invariant
that every step keeps. That an expiry may come with time remaining is the model's choice (notes/assumptions 2). The queue that a
PARK enters: its numbers and its room (R140), what a good report takes from it (R142), what a withdrawal does (R143). -/
def Obligations.ExpiriesEndWhatWaits : Prop :=
  (∀ (s : State),
    let after := fun (f : Ctx → Work → Work) => Host.Outcome.next (s.event fun h => h.onFloor [] f)
    (∀ n j, s.hall.fl.job? n = some j → j.timer.state = .running → j.timer.code ≠ 0 →
      exec (.reservationExpired n) s = after (fun x w => w.lapse x j)
      ∧ ∀ (x : Ctx) (w : Work), w.fl = s.hall.fl →
        (w.lapse x j).fl.jobs = s.hall.fl.jobs.filter (fun k => k.id != n)
        ∧ (w.lapse x j).out = w.out ++
            [⟨x.clock, .job .closed n j.station none none none (some (j.report .lapsed none))⟩]
        ∧ (∀ p, s.hall.fl.plate? j.plate = some p →
            (w.lapse x j).fl.plate? j.plate =
              some (if p.hold = .reserved n then { p with hold := .free } else p))
        ∧ (w.lapse x j).examine = true)
    ∧ (∀ n st, s.hall.fl.station? n = some st → st.park.state = .running → st.park.code ≠ 0 →
      exec (.parkTimerExpired n) s = after (fun x w => w.parkExpired x n)
      ∧ ∀ (x : Ctx) (w : Work), w.fl = s.hall.fl → x.hall ≠ .frozen → ∃ st', (w.parkExpired x n).fl.station? n = some st'
        ∧ st'.parked = true
        ∧ (st.parked = true → st' = { st with park := ⟨st.park.code, 0, .stopped⟩ })
        ∧ (st.parked = false → st.outbox = [] → ∀ node, s.hall.fl.node? (x.stationAddress n) = some node →
          (node.hasRoom = false →
            st' = { st with park := ⟨st.park.code, 0, .stopped⟩, parked := true, outbox := [.park] })
          ∧ ∀ k, node.orders.length < 4 → node.nextNumber = some k →
            st' = { st with park := ⟨st.park.code, 0, .stopped⟩, parked := true }
            ∧ ∃ node', (w.parkExpired x n).fl.node? (x.stationAddress n) = some node'
              ∧ node'.orders = node.orders ++ [⟨.park, k, false⟩]))
    ∧ (∀ n m, s.hall.fl.move? n = some m → m.wait.state = .running → m.wait.code ≠ 0 →
      (m.state = .waiting ∨ m.state = .bound) →
      exec (.moveWaitExpired n) s = after (fun x w => w.waitExpired x m)
      ∧ ∀ (x : Ctx) (w : Work), w.fl = s.hall.fl →
        (m.state = .waiting →
          (w.waitExpired x m).fl = { s.hall.fl with moves := s.hall.fl.moves.filter fun k => k.tag != n }
          ∧ (w.waitExpired x m).out = w.out ++ [⟨x.clock, .move .failed { m with wait := ⟨m.wait.code, 0, .stopped⟩ }
              (some (.failed .waitExpired)) 0 0 none (m.pickup.bind x.cfg.placeAt) ((x.cfg.placeAt m.drop).getD 0)⟩])
        ∧ (m.state = .bound →
          (w.waitExpired x m).fl.move? n = some { m with wait := ⟨m.wait.code, 0, .stopped⟩, expired := true }))
    ∧ ∀ t, (s.hall.sup.state = .frozen → s.hall.fl.timersStand) → step s = .next t → t.hall.sup.state = .frozen →
        t.hall.fl.timersStand)
  ∧ ∀ n : Node,
    (∀ o k n', n.hand o = some (k, n') ↔
      n.orders.length < 4 ∧ n' = { n with orders := n.orders ++ [⟨o, k, false⟩], lastAssigned := k }
      ∧ ∃ i < 15, k = (n.lastAssigned + i) % 15 + 1 ∧ n.available k
        ∧ ∀ j < i, ¬ n.available ((n.lastAssigned + j) % 15 + 1))
    ∧ (n.orders.length < 4 → n.unsettled.length ≤ 10 → n.hasRoom = true)
    ∧ (∀ stop taken, ∃ n', n.acknowledge stop taken = n' ∧ n'.stop = (if stop then false else n.stop)
      ∧ n' = { n with stop := n'.stop, orders := n'.orders, lastTaken := taken, unsettled := [] }
      ∧ (∀ q rest, n.orders = q :: rest →
          n'.orders = if q.number = taken ∧ q.sent = true then rest else n.orders)
      ∧ (n.orders = [] → n'.orders = []))
    ∧ (∀ k, (∀ q ∈ n.orders, q.number ≠ k) → n.withdraw k = none)
    ∧ (∀ before q rest, n.orders = before ++ q :: rest → (n.orders.map QueuedOrder.number).Nodup →
        n.withdraw q.number = some { n with
          orders := before ++ rest
          unsettled := if q.sent = true ∧ q.number ∉ n.unsettled then n.unsettled ++ [q.number] else n.unsettled })
    ∧ ∀ (x : Ctx) (w : Work) (a : Nat) (o : Order), x.hall = .frozen → w.handOrder x a o = none

/-! ## The hall line -/

/-- ROUND_GAP_EXPIRED, LINE_FRAME_SENT, STOP_ALL_SENT and BROADCAST_WINDOW_EXPIRED (R138, R135, R147, R141): the round
counter and the entries due, the visit that begins and the frame it carries, and the broadcast. That a broadcast told within
the window of another goes when that window ends, and that a round gap which is due then starts then, is the model's choice
(notes/assumptions 64, 71). The premise `recordInv` is an invariant stated below. -/
def Obligations.LineEventsCarryTheVisitsOn : Prop :=
  ∀ s : State, s.hall.recordInv →
    let l := s.hall.fl.line
    let round := (l.round + 1) % 64
    let due := (s.hall.cfg.polls.filter fun e => round % e.repetition == e.base).map PollEntry.position
    let kept := fun (t : State) => t.link = s.link.pump ∧ t.pending = s.pending ∧ t.hall.cfg = s.hall.cfg
      ∧ t.hall.templates = s.hall.templates ∧ t.hall.sup = s.hall.sup
      ∧ ({ t.hall.fl with line := l } : Floor) = s.hall.fl
    (l.gap = true → ∃ t, exec .roundGapExpired s = .next t ∧ kept t ∧ t.hall.fl.line.round = round
      ∧ (l.broadcast ≠ .none → t.hall.fl.line = { l with round, due, gap := false })
      ∧ (l.broadcast = .none → s.hall.polled due → s.hall.visitBegins due t.hall.fl.line
          ∧ (due ≠ [] → t.hall.fl.line.gap = false)))
    ∧ (∀ v, l.visit = some v → exec .lineFrameSent s = .next { s with hall := { s.hall with fl := { s.hall.fl with
        line := { l with visit := some { v with awaiting := true } } } } })
    ∧ (l.broadcast = .sending → exec .stopAllSent s = .next { s with hall := { s.hall with fl := { s.hall.fl with
        line := { l with broadcast := .window, broadcastPending := false } } } })
    ∧ (l.broadcast = .window → ∃ t, exec .broadcastWindowExpired s = .next t ∧ kept t
      ∧ (l.broadcastPending = true → t.hall.fl.line = { l with broadcast := .sending })
      ∧ (l.broadcastPending = false → l.gap = true → t.hall.fl.line = { l with broadcast := .none })
      ∧ (l.broadcastPending = false → l.gap = false → s.hall.polled l.due →
          s.hall.visitBegins l.due t.hall.fl.line ∧ t.hall.fl.line.broadcast = .none))
    ∧ ∀ (n : Node) (hall : HallState),
      (n.stop = true → n.visitFrame hall = (stopFrame n.address, n))
      ∧ (∀ q rest, n.stop = false → n.health = .up → hall ≠ .frozen → n.orders = q :: rest →
          n.visitFrame hall = (orderFrame n.address q.number q.order,
            { n with orders := { q with sent := true } :: rest }))
      ∧ (n.stop = false → (n.health ≠ .up ∨ hall = .frozen ∨ n.orders = []) →
          n.visitFrame hall = (pollFrame n.address, n))

/-- REPORT_RECEIVED and REPLY_WINDOW_EXPIRED (R135, R145, R146): which reports are good; a miss raises the miss count up to
the limit and takes an UP node at the limit for LOST; a good report of the node's kind clears the count, brings the node UP
and records the order taken; one of another kind makes it WRONG_KIND. The visit ends, and the line goes on (R138, R147). That a
number above 15 is recorded as it stands is the model's choice (notes/assumptions 60). -/
def Obligations.ReportsAreJudged : Prop :=
  (∀ (a k taken : Byte) (rest : List Byte) (kind : NodeKind) (more : List LineChar),
      nodeKindOf k.toNat = some kind → kind.statusBytes ≤ rest.length → rest.length ≤ 251 →
      let content := BitVec.ofNat 8 (rest.length + 4) :: a :: k :: taken :: rest
      let chars := lineChars (content ++ encCrc (crc16 content))
      judge a.toNat (chars ++ more) = some ⟨a.toNat, kind, taken.toNat, rest⟩
      ∧ (∀ b, b ≠ a.toNat → judge b (chars ++ more) = none)
      ∧ (∀ crc, crc ≠ crc16 content → judge a.toNat (lineChars (content ++ encCrc crc) ++ more) = none)
      ∧ (∀ i < chars.length, judge a.toNat (chars.take i) = none
          ∧ ∀ ch : LineChar, (ch.address = true ∨ ch.stopOk = false) → ch.data = ((chars[i]?).map LineChar.data).getD 0 →
            judge a.toNat (chars.set i ch ++ more) = none))
    ∧ ∀ (s : State) (v : Visit) (n : Node), s.hall.fl.line.visit = some v → v.awaiting = true →
      s.hall.fl.node? v.address = some n →
      let ends := fun (t : State) => t.pending = s.pending ∧ t.hall.cfg = s.hall.cfg
        ∧ t.hall.templates = s.hall.templates ∧ t.hall.fl.line.round = s.hall.fl.line.round
        ∧ (s.hall.polled s.hall.fl.line.due →
            Line.goesOn s.hall.fl.line.due s.hall.fl.line.broadcastPending t.hall.fl.line)
      let missed := fun (t : State) => ∃ n', t.hall.fl.node? v.address = some n'
        ∧ n'.miss = min s.hall.cfg.line.missLimit (n.miss + 1)
        ∧ n'.health = if n.health = .up ∧ s.hall.cfg.line.missLimit ≤ n'.miss then .lost else n.health
      (∃ t, exec .replyWindowExpired s = .next t ∧ ends t ∧ missed t)
      ∧ (∀ chars, judge v.address chars = none → ∃ t, exec (.reportReceived chars) s = .next t ∧ ends t ∧ missed t)
      ∧ ∀ chars r, judge v.address chars = some r →
        ∃ t n', exec (.reportReceived chars) s = .next t ∧ ends t ∧ t.hall.fl.node? v.address = some n' ∧ n'.miss = 0
          ∧ (r.kind = n.kind → n'.health = .up ∧ n'.lastTaken = r.taken)
          ∧ (r.kind ≠ n.kind → n'.health = .wrongKind ∧ n'.reportedKind = some r.kind)

/-! ## Slots, wear and lifts -/

/-- A flag of a rack report taken for a slot (R24, R25, R26, R27): a value that stands already clears the count; another, or
any while a decision is awaited, is a candidate at its first report and confirmed at its second in a row; a value confirmed
while no crane works at the slot decides the slot: its dispute, the end of a verification and of a recheck, and a plate found
missing or found again. That a value confirmed while a crane works leaves a recheck asked is the model's choice
(notes/assumptions 21). -/
def Obligations.SlotsAreDebouncedAndEvaluated : Prop :=
  ∀ (x : Ctx) (w : Work) (r n : Nat) (s : Slot) (flag : Sensed), w.fl.slot? r n = some s → flag ≠ .unknown →
    let w' := w.senseSlot x r n flag
    let asked := s.transfer = .verifyIn ∨ s.transfer = .verifyOut ∨ s.recheck = true
    let working := ∃ t, s.transfer = .inbound t ∨ s.transfer = .outbound t
    let dispute : Dispute :=
      if s.register.isSome then (if flag = .empty then .missingPlate else .none)
      else if flag = .occupied then .unexpectedObject else .none
    let confirmed : Slot := { s with sensed := flag, candidate := none, agree := 0 }
    (¬ asked → flag = s.sensed → w'.fl.slot? r n = some { s with candidate := none, agree := 0 })
    ∧ ((asked ∨ flag ≠ s.sensed) → (s.candidate ≠ some flag ∨ s.agree = 0) →
        w'.fl.slot? r n = some { s with candidate := some flag, agree := 1 } ∧ w'.out = w.out)
    ∧ ((asked ∨ flag ≠ s.sensed) → s.candidate = some flag → 1 ≤ s.agree →
      (working → w'.fl.slot? r n = some confirmed ∧ w'.out = w.out)
      ∧ (¬ working →
        w'.fl.slot? r n = some { confirmed with dispute, transfer := .none, recheck := false }
        ∧ (s.dispute = dispute → s.register = none → w'.out = w.out)
        ∧ ∀ p q, s.register = some p → w.fl.plate? p = some q →
          (flag = .empty → s.dispute ≠ .missingPlate → ∃ q', w'.fl.plate? p = some q' ∧ q'.hold = .missing)
          ∧ (flag = .occupied → ∃ q', w'.fl.plate? p = some q'
              ∧ q'.hold = if q.hold = .missing then Hold.free else q.hold)))

/-- R18: what a result taken by a station's sequencer adds to its wear. -/
def Obligations.BurnResultsChargeTheWear : Prop :=
  (∀ (x : Ctx) (w : Work) (n arc pierces : Nat) (st : Station) (e : InProgress) (p : Plate) (failure : Option FailReason),
      w.fl.station? n = some st → st.entry = some e → st.bed.bind w.fl.plate? = some p →
      ∃ st', (w.entryResult x n failure arc pierces).fl.station? n = some st'
        ∧ (e.kind = .burn → st'.wear = min 65535 (st.wear + (pierces * pierceCost p.thickness + arc)))
        ∧ (e.kind = .mark → st'.wear = st.wear)
        ∧ (e.kind = .burn → pierces = 0 → arc = 0 → st.wear ≤ 65535 → st'.wear = st.wear))
    ∧ (∀ t, 1 ≤ t → ∃ c, pierceCost t = 4 + c ∧ 50 * (c - 1) < t ∧ t ≤ 50 * c)
    ∧ (∀ t, 30 ≤ t → t ≤ 1500 → 5 ≤ pierceCost t ∧ pierceCost t ≤ 34)
    ∧ pierceCost 30 = 5 ∧ pierceCost 1500 = 34 ∧ pierceCost 150 = 7 ∧ pierceCost 151 = 8 ∧ pierceCost 160 = 8
    ∧ (∀ t pierces arc, t ≤ 1500 → pierces < 256 → arc < 65536 → pierces * pierceCost t + arc < 2 ^ 32)
    ∧ ∀ old, old + 166 ≤ 65535 → wearAfter old 160 3 142 = old + 166

/-- R15, R14, R124, R125: a LIFTED is tested as ten times its reading, first against the allowance of the bound crane, then
against the tolerance; a MOVE notice tells the figures. A pass lets the crane go on: CONTINUE is produced, the move is TO_DROP,
the load leaves its pickup for the crane, and a remnant's store ends STORE for its job (R96). A failure has it lower the load
back: LOWER_BACK is produced, the move ends, its plate is QUARANTINED where it lies, the crane is IDLE (R126), and the job that
holds the plate, or asked for the move, is told: it closes, or waits LIFT_FAILED. That a job a host move's plate is COMMITTED to
closes too is the model's choice (notes/assumptions 22). -/
def Obligations.LiftsAreCheckedByTheLoadCell : Prop :=
  (∀ (x : Ctx) (w : Work) (c reading mass thickness grade : Nat) (m : Move) (k : CraneCfg) (lim : Limits),
      w.fl.loadFigures m.load = some (mass, thickness, grade) → x.cfg.crane? c = some k → x.cfg.limits = some lim →
      let measured := reading * 10
      let tol := max lim.absmin (mass * lim.pct / 100)
      let allowed := min (k.swl - k.tare) (kmag k thickness (x.cfg.factor grade))
      let told := fun (r : Option FailReason) => w.note x
        (.move .lifted m none measured tol r (m.pickup.bind x.cfg.placeAt) ((x.cfg.placeAt m.drop).getD 0))
      (allowed < measured → w.lifted x c m reading = (told (some .overload)).liftRejected x c m .overload)
      ∧ (measured ≤ allowed → (measured + tol < mass ∨ mass + tol < measured) →
          w.lifted x c m reading = (told (some .loadMismatch)).liftRejected x c m .loadMismatch)
      ∧ (measured ≤ allowed → mass ≤ measured + tol → measured ≤ mass + tol →
          w.lifted x c m reading = (told none).liftPassed x c m))
    ∧ (∀ (x : Ctx) (w : Work) (c : Nat) (m : Move) (r : FailReason) (k : Crane), w.fl.keyed → m.crane = some c →
        w.fl.crane? c = some k → k.outbox.length ≤ 3 →
        let w' := w.liftRejected x c m r
        x.produced w'.fl c (.lowerBack m.tag) ∧ w'.fl.move? m.tag = none
        ∧ (∃ k', w'.fl.crane? c = some k' ∧ k'.bound = none ∧ k'.activity = .idle)
        ∧ (∀ id p, m.load = .plate id → w.fl.plate? id = some p →
          w'.fl.plate? id = some { p with hold := .quarantined }
          ∧ (∀ j, m.origin = .host → (p.hold = .reserved j ∨ p.hold = .committed j) → w'.fl.job? j = none)
          ∧ (m.origin = .host → (∀ j, p.hold ≠ .reserved j ∧ p.hold ≠ .committed j) → w'.fl.jobs = w.fl.jobs))
        ∧ (∀ j, m.origin = .job j → m.kind ≠ .remnantStore → m.kind ≠ .skeletonOut → w'.fl.job? j = none)
        ∧ ∀ j q, m.origin = .job q → (m.kind = .remnantStore ∨ m.kind = .skeletonOut) → w.fl.job? q = some j →
          (∀ st, w.fl.station? j.station = some st → m.drop ≠ .station j.station →
            w'.fl.station? j.station = some { st with cond := .liftFailed })
          ∧ ∃ j', w'.fl.job? q = some j' ∧ j'.step? = j.step?)
    ∧ ∀ (x : Ctx) (w : Work) (c : Nat) (m : Move), w.fl.keyed → w.fl.move? m.tag = some m →
        let w' := w.liftPassed x c m
        (∀ k, w.fl.crane? c = some k → k.outbox.length ≤ 3 → x.produced w'.fl c (.continue m.tag))
        ∧ w'.fl.move? m.tag = some { m with state := .phase .toDrop }
        ∧ ∀ id p, m.load = .plate id → w.fl.plate? id = some p →
          w'.fl.plate? id = some { p with location := .crane c }
          ∧ (∀ n st, p.location = .station n → w.fl.station? n = some st →
              ∃ st', w'.fl.station? n = some st' ∧ st'.bed = none)
          ∧ (∀ b l k, p.location = .bay b l → w.fl.bay? b = some k → w'.fl.bay? b = some { k with
              stack := k.stack.filter (fun i => i != id), claim := if k.claim = some m.tag then none else k.claim })
          ∧ (∀ a n s, p.location = .rack a n → w.fl.slot? a n = some s → w'.fl.slot? a n = some { s with
              register := none, transfer := .verifyOut, candidate := none, agree := 0 })
          ∧ ∀ j k q, m.kind = .remnantStore → m.origin = .job j → w.fl.job? j = some k → k.closeOut = some q →
            ∃ k' q', w'.fl.job? j = some k' ∧ k'.closeOut = some q' ∧ q'.step = .skeleton

/-- R13: the magnet capacity of a crane. -/
def Obligations.MagnetCapacityFollowsTheFormula : Prop :=
  (∀ (c : CraneCfg) (t f : Nat),
      ((t < c.tmin ∨ f = 0) → kmag c t f = 0)
      ∧ (c.tmin ≤ t → f ≠ 0 → 0 < c.tfull →
        (∀ q, kmag c t f = q ↔ q * (c.tfull * 100) ≤ c.cm * min t c.tfull * f
            ∧ c.cm * min t c.tfull * f < (q + 1) * (c.tfull * 100))
        ∧ (c.tfull ≤ t → kmag c t f = c.cm * f / 100))
      ∧ (c.cm ≤ 2000000 → f ≤ 100 → c.tfull ≤ 1500 → c.cm * min t c.tfull * f < 2 ^ 64))
    ∧ (∀ c : CraneCfg, c.cm = 90000 → c.tfull = 250 → c.tmin = 40 →
        kmag c 35 100 = 0 ∧ kmag c 43 83 = 12848 ∧ kmag c 160 100 = 57600 ∧ kmag c 400 100 = 90000 ∧ kmag c 160 0 = 0)
    ∧ (∀ (x : Ctx) (c : CraneCfg) (mass t g : Nat),
        x.lifts c mass t g = decide (mass ≤ min (c.swl - c.tare) (kmag c t (x.cfg.factor g))))
    ∧ ∀ (fl : Floor) (s m t g : Nat), fl.loadFigures (.skeleton s m t g) = some (m, t, g)

/-! ## Invariants that every step keeps -/

/-- The host link (R167-R171): its bounds, the order of the input queue, the transmitter and the frame in assembly. -/
def Obligations.HostLinkInvariantIsKept : Prop :=
  (∀ s t : State, s.link.Inv → step s = .next t → t.link.Inv)
    ∧ ∀ s t : State, s.link.assembling → step s = .next t → t.link.assembling

/-- The hall record (R149, R150, R157, R163): frozen-from and the freeze cause are present in FROZEN alone, the capture time
while the STOP input is asserted, HOLDING only with something in flight, and ALERT as R163 has it. -/
def Obligations.HallRecordInvariantIsKept : Prop :=
  ∀ s t : State, s.hall.recordInv → step s = .next t → t.hall.recordInv

/-- While both cranes hold extent grants, crane 1's upper bound plus S is at most crane 2's lower bound (R116): the first
part of `cranesInv`, which every step keeps. -/
def Obligations.CranesStaySeparated : Prop :=
  ∀ s t : State, s.hall.cranesInv → step s = .next t → t.hall.cranesInv

/-- R12, R11: every plate record's area and mass are those of its own figures, after reset and after every step, with the
bounds and the figures of R11 and R12; and the skeleton's mass is that of the same formula. -/
def Obligations.PlateFiguresAreKept : Prop :=
  (∀ s t : State, s.hall.platesInv → step s = .next t → t.hall.platesInv) ∧ State.reset.hall.platesInv
    ∧ (∀ s : State, s.hall.platesInv → ∀ p ∈ s.hall.fl.plates, ∀ g, s.hall.cfg.grade? p.grade = some g →
        p.mass = (p.area * p.thickness * g.density + 500000000) / 1000000000)
    ∧ (∀ len wid, areaOf len wid none = len * wid)
    ∧ (∀ len wid n, areaOf len wid (some n) = len * wid - n.nl * n.nw)
    ∧ (∀ (len wid : Nat) (n : Option Notch), 200 ≤ len → len ≤ 24000 → 200 ≤ wid → wid ≤ 4800 →
        (∀ k, n = some k → 100 ≤ k.nl ∧ k.nl + 100 ≤ len ∧ 100 ≤ k.nw ∧ k.nw + 100 ≤ wid) →
        30000 ≤ areaOf len wid n ∧ areaOf len wid n ≤ 115200000 ∧ (n = none → 40000 ≤ areaOf len wid n)
        ∧ ∀ t d, 30 ≤ t → t ≤ 1500 → 7000 ≤ d → d ≤ 8200 →
          6 ≤ massOf (areaOf len wid n) t d ∧ massOf (areaOf len wid n) t d ≤ 1416960
          ∧ areaOf len wid n * t * d ≤ 1416960000000000)
    ∧ massOf 50000 30 7000 = 11 ∧ massOf 30000 30 7000 = 6 ∧ massOf 115200000 1500 8200 = 1416960
    ∧ ∀ (cfg : Tables) (j : Job) (scrapped : Bool) (g : Grade), cfg.grade? j.grade = some g →
        j.mskel cfg scrapped = massOf (j.askel scrapped) j.thickness g.density

/-- Every table has one entry for each number (R1, R2, R21, R22, R43, R44, R68, R79, R102, R103, R107, R137, R139), and every
counter runs up: what it issued last lies below what it issues next, unless it is exhausted (R69, R70). -/
def Obligations.TablesStayKeyedAndCountersRunUp : Prop :=
  ∀ s t : State, s.hall.keyed → (∀ c ∈ s.hall.fl.counters, c.runsUp) → step s = .next t →
    t.hall.keyed ∧ ∀ c ∈ t.hall.fl.counters, c.runsUp

/-- The state after reset meets every invariant stated above. -/
def Obligations.InvariantsHoldAtReset : Prop :=
  State.reset.link.Inv ∧ State.reset.link.assembling ∧ State.reset.hall.recordInv ∧ State.reset.hall.cranesInv
    ∧ State.reset.hall.platesInv ∧ State.reset.hall.keyed ∧ (∀ c ∈ State.reset.hall.fl.counters, c.runsUp)
    ∧ ∀ (r h : Bool) (s t : State), exec (.reset r h) s = .next t →
        t.link.Inv ∧ t.link.assembling ∧ t.hall.recordInv ∧ t.hall.cranesInv ∧ t.hall.platesInv ∧ t.hall.keyed
        ∧ ∀ c ∈ t.hall.fl.counters, c.runsUp
end

