-- ==== Sys2Proof/Laws/Table.lean ====
section
/-! SUPPORT. Tables kept in ascending order of their keys: what `get`, `put`, `drop` and `amend` do to one another, and that
each keeps the order. -/
namespace Sys2Proof.Machine

-- One theorem after the other: the package compiled as one text must not start a thread for each.
set_option Elab.async false

section
variable {α : Type} (key : α → Nat)

/-- Every element of a table with an entry put in is that entry or was there. -/
theorem Table.mem_put {x a : α} : ∀ {l : List α}, a ∈ Table.put key x l → a = x ∨ a ∈ l
  | [], h => by simpa [Table.put] using h
  | b :: l, h => by
    unfold Table.put at h
    split at h
    · simpa using h
    · split at h
      · rcases List.mem_cons.1 h with h | h
        · exact .inl h
        · exact .inr (List.mem_cons_of_mem _ h)
      · rcases List.mem_cons.1 h with h | h
        · exact .inr (h ▸ List.mem_cons_self)
        · rcases Table.mem_put h with h | h
          · exact .inl h
          · exact .inr (List.mem_cons_of_mem _ h)

/-- The entry put in is found under its number. -/
theorem Table.get_put_self (x : α) : ∀ l : List α, Table.get key (key x) (Table.put key x l) = some x
  | [] => by simp [Table.put, Table.get]
  | b :: l => by
    unfold Table.put
    split
    · simp [Table.get]
    · split
      · simp [Table.get]
      · rename_i h1 h2
        have ih := Table.get_put_self x l
        unfold Table.get at ih ⊢
        rw [List.find?_cons_of_neg (by simpa using fun h => h2 h.symm)]
        exact ih

/-- An entry put in hides no entry of another number. -/
theorem Table.get_put_other (x : α) {n : Nat} (hn : n ≠ key x) :
    ∀ l : List α, Table.get key n (Table.put key x l) = Table.get key n l
  | [] => by simp [Table.put, Table.get, Ne.symm hn]
  | b :: l => by
    unfold Table.put
    split
    · unfold Table.get
      rw [List.find?_cons_of_neg (by simpa using Ne.symm hn)]
    · split
      · rename_i h1 h2
        unfold Table.get
        rw [List.find?_cons_of_neg (by simpa using Ne.symm hn),
          List.find?_cons_of_neg (by simpa [← h2] using Ne.symm hn)]
      · have ih := Table.get_put_other x hn l
        unfold Table.get at ih ⊢
        by_cases hb : key b = n
        · rw [List.find?_cons_of_pos (by simpa using hb), List.find?_cons_of_pos (by simpa using hb)]
        · rw [List.find?_cons_of_neg (by simpa using hb), List.find?_cons_of_neg (by simpa using hb)]
          exact ih

/-- A number dropped is not found. -/
@[simp] theorem Table.get_drop_self (n : Nat) (l : List α) : Table.get key n (Table.drop key n l) = none := by
  unfold Table.get Table.drop
  rw [List.find?_eq_none]
  intro a ha
  have := (List.mem_filter.1 ha).2
  simpa using this

/-- Dropping a number leaves every other. -/
theorem Table.get_drop_other {n m : Nat} (h : m ≠ n) (l : List α) :
    Table.get key m (Table.drop key n l) = Table.get key m l := by
  unfold Table.get Table.drop
  rw [List.find?_filter]
  congr 1
  funext a
  by_cases ha : key a = m
  · simp [ha, h]
  · simp [ha]

/-- Every element of a table with a number dropped was there, under another number. -/
theorem Table.mem_drop {n : Nat} {a : α} {l : List α} : a ∈ Table.drop key n l ↔ a ∈ l ∧ key a ≠ n := by
  simp [Table.drop]

/-- What is found under a number has that number. -/
theorem Table.key_of_get {n : Nat} {a : α} {l : List α} (h : Table.get key n l = some a) : key a = n := by
  unfold Table.get at h
  have := List.find?_some h
  simpa using this

/-- What is found is in the table. -/
theorem Table.mem_of_get {n : Nat} {a : α} {l : List α} (h : Table.get key n l = some a) : a ∈ l :=
  List.mem_of_find?_eq_some h

/-- A change that keeps the numbers keeps the table's numbers. -/
theorem Table.keys_amend {n : Nat} {f : α → α} (hf : ∀ a, key a = n → key (f a) = n) (l : List α) :
    (Table.amend key n f l).map key = l.map key := by
  unfold Table.amend
  rw [List.map_map]
  apply List.map_congr_left
  intro a _
  simp only [Function.comp]
  split
  · rename_i h; rw [hf a h, h]
  · rfl

/-- The entry under a number after a change of it. -/
theorem Table.get_amend_self {n : Nat} {f : α → α} (hf : ∀ a, key a = n → key (f a) = n) :
    ∀ l : List α, Table.get key n (Table.amend key n f l) = (Table.get key n l).map f
  | [] => rfl
  | a :: l => by
    have ih := Table.get_amend_self hf l
    unfold Table.get Table.amend at ih ⊢
    by_cases h : key a = n
    · simp [h, hf a h]
    · simp only [List.map_cons, if_neg h]
      rw [List.find?_cons_of_neg (by simpa using h), List.find?_cons_of_neg (by simpa using h)]
      exact ih

/-- The entries under the other numbers after a change. -/
theorem Table.get_amend_other {n m : Nat} (hm : m ≠ n) {f : α → α} (hf : ∀ a, key a = n → key (f a) = n) :
    ∀ l : List α, Table.get key m (Table.amend key n f l) = Table.get key m l
  | [] => rfl
  | a :: l => by
    have ih := Table.get_amend_other hm hf l
    unfold Table.get Table.amend at ih ⊢
    by_cases h : key a = n
    · simp only [List.map_cons, if_pos h]
      rw [List.find?_cons_of_neg (by simpa [hf a h] using Ne.symm hm),
        List.find?_cons_of_neg (by simpa [h] using Ne.symm hm)]
      exact ih
    · simp only [List.map_cons, if_neg h]
      by_cases hk : key a = m
      · rw [List.find?_cons_of_pos (by simpa using hk), List.find?_cons_of_pos (by simpa using hk)]
      · rw [List.find?_cons_of_neg (by simpa using hk), List.find?_cons_of_neg (by simpa using hk)]
        exact ih

/-- A table in ascending order keeps it when an entry is put in. -/
theorem Table.sorted_put (x : α) :
    ∀ {l : List α}, (l.map key).Pairwise (· < ·) → ((Table.put key x l).map key).Pairwise (· < ·)
  | [], _ => by simp [Table.put]
  | b :: l, h => by
    have hb := (List.pairwise_cons.1 h).1
    have hl := (List.pairwise_cons.1 h).2
    unfold Table.put
    split
    · rename_i h1
      refine List.pairwise_cons.2 ⟨?_, h⟩
      intro k hk
      rcases List.mem_cons.1 hk with hk | hk
      · omega
      · exact Nat.lt_trans h1 (hb k hk)
    · split
      · rename_i h1 h2
        refine List.pairwise_cons.2 ⟨?_, hl⟩
        intro k hk; rw [h2]; exact hb k hk
      · rename_i h1 h2
        refine List.pairwise_cons.2 ⟨?_, Table.sorted_put x hl⟩
        intro k hk
        obtain ⟨a, ha, rfl⟩ := List.mem_map.1 hk
        rcases Table.mem_put key ha with rfl | ha
        · omega
        · exact hb _ (List.mem_map_of_mem ha)

/-- A table in ascending order keeps it when a number is dropped. -/
theorem Table.sorted_drop (n : Nat) {l : List α} (h : (l.map key).Pairwise (· < ·)) :
    ((Table.drop key n l).map key).Pairwise (· < ·) :=
  List.Pairwise.sublist (List.Sublist.map _ List.filter_sublist) h
end

end Sys2Proof.Machine
end

