-- ==== Sys2Proof/Laws/Reached.lean ====
section
/-! SUPPORT. What an event can do to the floor: `Reached` lists the elementary changes, each with what it keeps, and every
operation on the floor is a sequence of them (Sys2Proof/Laws/Floor.lean and the files after it). What every elementary change
keeps, every event keeps: the theorems at the end. -/
namespace Sys2Proof.Machine

-- One theorem after the other: the package compiled as one text must not start a thread for each.
set_option Elab.async false

/-- Something is under way (`A`), or nothing is present that could bring a job, a move, a plate or a grant about. -/
def Floor.Live (A : Prop) (fl : Floor) : Prop :=
  A ∨ (fl.jobs = [] ∧ fl.moves = [] ∧ fl.plates = [] ∧ ∀ k ∈ fl.cranes, k.grant = none)

/-- A crane number, or none. -/
def isCrane : Option Nat → Prop
  | none => True
  | some c => c = 1 ∨ c = 2

/-- The crane records are numbered 1 and 2, and every move that has a crane has one of them. -/
def Floor.cranesKnown (fl : Floor) : Prop :=
  (∀ m ∈ fl.moves, isCrane m.crane) ∧ ∀ k ∈ fl.cranes, k.num = 1 ∨ k.num = 2

/-- A timer changed: in FROZEN it does not come to run (R20). -/
def Timer.keeps (hall : HallState) (t t' : Timer) : Prop := hall = .frozen → t'.state = .running → t.state = .running

/-- The move is suspended with the cause FROZEN (R127). -/
def Move.heldFrozen (m : Move) : Prop := ∃ p z, m.state = .suspended p z ∧ z.frozen = true

/-- No two orders of one kind wait in the station's outbox. -/
def Station.boxed (s : Station) : Prop := (s.outbox.map Order.outboxKind).Nodup

/-- There are four kinds of order: an outbox that holds no two of a kind holds no more than four (R47). -/
theorem Station.boxed.four {s : Station} (h : s.boxed) : s.outbox.length ≤ 4 := by
  simpa using List.Nodup.length_le_of_subset (l₂ := [0, 1, 2, 3]) h fun k _ => (by decide : ∀ k : Fin 4, k ∈ [0, 1, 2, 3]) k

/-- A station changed: its park timer does not come to run in FROZEN, under `Q` neither HALL nor FROZEN comes into its
hold set, and its outbox goes on holding no two orders of a kind. -/
def Station.keeps (hall : HallState) (Q : Prop) (s s' : Station) : Prop :=
  s.park.keeps hall s'.park
    ∧ (Q → (s'.hold.hall = true → s.hold.hall = true) ∧ (s'.hold.frozen = true → s.hold.frozen = true))
    ∧ (s.boxed → s'.boxed)

/-- A move of a queue changed: its wait timer does not come to run in FROZEN and, under `Q`, none comes to be suspended with
FROZEN under its tag. -/
def Move.keeps (hall : HallState) (Q : Prop) (l : List Move) (m m' : Move) : Prop :=
  m.wait.keeps hall m'.wait ∧ (Q → m'.heldFrozen → ∃ k ∈ l, k.tag = m.tag ∧ k.heldFrozen)

/-- A crane changed: under `Q` FROZEN does not come among its stop causes. -/
def Crane.keeps (Q : Prop) (k k' : Crane) : Prop := Q → k'.stopFrozen = true → k.stopFrozen = true

theorem Station.keeps_rfl {hall : HallState} {Q : Prop} (s : Station) : s.keeps hall Q s := ⟨fun _ h => h, fun _ => ⟨id, id⟩, id⟩
theorem Move.keeps_rfl {hall : HallState} {Q : Prop} {l : List Move} {m : Move} (h : m ∈ l) : m.keeps hall Q l m :=
  ⟨fun _ h => h, fun _ hz => ⟨m, h, rfl, hz⟩⟩

/-- The floors to which an event can bring the floor `fl₀` by elementary changes. `A` says that something may be brought
about: a job, a move or a plate record, or a grant where there was none. `B` says that the cranes are known, which the
separation of the grants rests on; without it nothing is said of what a grant keeps. `Q` says that the event neither freezes nor
holds the hall: nothing is suspended, held or stopped by it with FROZEN or HALL. -/
inductive Reached (x : Ctx) (A B Q : Prop) (fl₀ : Floor) : Floor → Prop
  | start (h : fl₀.Live A) (hB : B → fl₀.cranesKnown) : Reached x A B Q fl₀ fl₀
  | stations {fl} (f : Station → Station) (hf : ∀ s, (f s).num = s.num) (hk : ∀ s : Station, s.keeps x.hall Q (f s))
      (h : Reached x A B Q fl₀ fl) :
      Reached x A B Q fl₀ { fl with stations := fl.stations.map f }
  | bays {fl} (f : Bay → Bay) (hf : ∀ b, (f b).num = b.num) (h : Reached x A B Q fl₀ fl) :
      Reached x A B Q fl₀ { fl with bays := fl.bays.map f }
  | racks {fl} (f : Rack → Rack) (hf : ∀ k, (f k).num = k.num) (h : Reached x A B Q fl₀ fl) :
      Reached x A B Q fl₀ { fl with racks := fl.racks.map f }
  | counters {fl} (f : Counter → Counter) (hf : ∀ c, (f c).id = c.id ∧ (c.runsUp → (f c).runsUp))
      (h : Reached x A B Q fl₀ fl) : Reached x A B Q fl₀ { fl with counters := fl.counters.map f }
  | nodes {fl} (f : Node → Node) (hf : ∀ n, (f n).address = n.address) (h : Reached x A B Q fl₀ fl) :
      Reached x A B Q fl₀ { fl with line := { fl.line with nodes := fl.line.nodes.map f } }
  | jobs {fl} (f : Job → Job) (hf : ∀ j, (f j).id = j.id) (hk : ∀ j : Job, j.timer.keeps x.hall (f j).timer)
      (h : Reached x A B Q fl₀ fl) :
      Reached x A B Q fl₀ { fl with jobs := fl.jobs.map f }
  | jobFirst {fl} (j : Job) (hj : j ∈ fl.jobs) (h : Reached x A B Q fl₀ fl) :
      Reached x A B Q fl₀ { fl with jobs := j :: Table.drop Job.id j.id fl.jobs }
  | jobAdded {fl} (j : Job) (hj : fl.job? j.id = none) (ht : x.hall = .frozen → j.timer.state ≠ .running) (hA : A)
      (h : Reached x A B Q fl₀ fl) :
      Reached x A B Q fl₀ { fl with jobs := fl.jobs ++ [j] }
  | jobGone {fl} (id : Nat) (h : Reached x A B Q fl₀ fl) : Reached x A B Q fl₀ { fl with jobs := Table.drop Job.id id fl.jobs }
  | moves {fl} (f : Move → Move) (hf : ∀ m, (f m).tag = m.tag ∧ (B → isCrane m.crane → isCrane (f m).crane))
      (hk : ∀ m ∈ fl.moves, m.keeps x.hall Q fl.moves (f m)) (h : Reached x A B Q fl₀ fl) : Reached x A B Q fl₀ { fl with moves := fl.moves.map f }
  | moveAdded {fl} (m : Move) (hm : fl.move? m.tag = none) (hc : m.crane = none) (hs : m.state = .waiting)
      (ht : x.hall = .frozen → m.wait.state ≠ .running) (hA : A) (h : Reached x A B Q fl₀ fl) :
      Reached x A B Q fl₀ { fl with moves := fl.moves ++ [m] }
  | moveGone {fl} (t : Nat) (h : Reached x A B Q fl₀ fl) : Reached x A B Q fl₀ { fl with moves := Table.drop Move.tag t fl.moves }
  | plates {fl} (f : Plate → Plate) (hf : ∀ p, (f p).id = p.id ∧ (p.figuresHold x.cfg → (f p).figuresHold x.cfg))
      (h : Reached x A B Q fl₀ fl) : Reached x A B Q fl₀ { fl with plates := fl.plates.map f }
  | plateAdded {fl} (p : Plate) (hp : p.figuresHold x.cfg) (hA : A) (h : Reached x A B Q fl₀ fl) :
      Reached x A B Q fl₀ { fl with plates := Table.put Plate.id p fl.plates, nextId := idAfter p.id }
  | plateGone {fl} (id : Nat) (h : Reached x A B Q fl₀ fl) :
      Reached x A B Q fl₀ { fl with plates := Table.drop Plate.id id fl.plates }
  | cranes {fl} (f : Crane → Crane) (hf : ∀ k, (f k).num = k.num ∧ (f k).grant = k.grant)
      (hk : ∀ k : Crane, k.keeps Q (f k)) (h : Reached x A B Q fl₀ fl) :
      Reached x A B Q fl₀ { fl with cranes := fl.cranes.map f }
  | grant {fl} (c : Nat) (g : Grant) (hg : B → keepsSeparation x.cfg.separation c g (fl.otherGrant c) = true) (hA : A)
      (h : Reached x A B Q fl₀ fl) :
      Reached x A B Q fl₀ { fl with cranes := Table.amend Crane.num c (fun k => { k with grant := some g }) fl.cranes }
  | shrink {fl} (c : Nat) (g old : Grant) (ho : (fl.crane? c).bind Crane.grant = some old)
      (hg : old.lo ≤ g.lo ∧ g.hi ≤ old.hi) (h : Reached x A B Q fl₀ fl) :
      Reached x A B Q fl₀ { fl with cranes := Table.amend Crane.num c (fun k => { k with grant := some g }) fl.cranes }
  | runway {fl} (stopped : Bool) (h : Reached x A B Q fl₀ fl) : Reached x A B Q fl₀ { fl with runwayStopped := stopped }
  | freeTaken {fl} (n : Nat) (h : Reached x A B Q fl₀ fl) : Reached x A B Q fl₀ { fl with freeTaken := n }

/-! ## What every elementary change keeps -/

section
variable {x : Ctx} {A B Q : Prop} {fl₀ fl : Floor}

/-- Nothing is brought about where nothing was under way. -/
theorem Reached.live (h : Reached x A B Q fl₀ fl) : fl.Live A := by
  induction h with
  | start h _ => exact h
  | jobAdded _ _ _ hA | moveAdded _ _ _ _ _ hA | plateAdded _ _ hA | grant _ _ _ hA => exact .inl hA
  | stations _ _ _ _ ih | bays _ _ _ ih | racks _ _ _ ih | counters _ _ _ ih | nodes _ _ _ ih | runway _ _ ih
  | freeTaken _ _ ih => exact ih
  | jobs f _ _ _ ih => exact ih.imp id fun ⟨a, b, c, d⟩ => ⟨by simp [a], b, c, d⟩
  | jobGone _ _ ih => exact ih.imp id fun ⟨a, b, c, d⟩ => ⟨by simp [a, Table.drop], b, c, d⟩
  | moves f _ _ _ ih => exact ih.imp id fun ⟨a, b, c, d⟩ => ⟨a, by simp [b], c, d⟩
  | moveGone _ _ ih => exact ih.imp id fun ⟨a, b, c, d⟩ => ⟨a, by simp [b, Table.drop], c, d⟩
  | plates f _ _ ih => exact ih.imp id fun ⟨a, b, c, d⟩ => ⟨a, b, by simp [c], d⟩
  | plateGone _ _ ih => exact ih.imp id fun ⟨a, b, c, d⟩ => ⟨a, b, by simp [c, Table.drop], d⟩
  | jobFirst j hj _ ih =>
    exact ih.imp id fun ⟨a, _⟩ => absurd hj (by simp [a])
  | cranes f hf _ _ ih =>
    refine ih.imp id fun ⟨a, b, c, d⟩ => ⟨a, b, c, fun k hk => ?_⟩
    obtain ⟨k', hk', rfl⟩ := List.mem_map.1 hk
    rw [(hf k').2, d k' hk']
  | shrink c g old ho _ _ ih =>
    refine ih.imp id fun ⟨_, _, _, d⟩ => ?_
    obtain ⟨k, hk, hg⟩ := Option.bind_eq_some_iff.1 ho
    rw [d k (Table.mem_of_get _ hk)] at hg
    cases hg

/-- A job that is present: something is under way. -/
theorem Reached.of_job (h : Reached x A B Q fl₀ fl) {id : Nat} {j : Job} (hj : fl.job? id = some j) : A := by
  refine h.live.resolve_right fun ⟨a, _⟩ => ?_
  simp [Floor.job?, Table.get, a] at hj

/-- A move that is present: something is under way. -/
theorem Reached.of_move (h : Reached x A B Q fl₀ fl) {t : Nat} {m : Move} (hm : fl.move? t = some m) : A := by
  refine h.live.resolve_right fun ⟨_, a, _⟩ => ?_
  simp [Floor.move?, Table.get, a] at hm

/-- A plate that is present: something is under way. -/
theorem Reached.of_plate (h : Reached x A B Q fl₀ fl) {id : Nat} {p : Plate} (hp : fl.plate? id = some p) : A := by
  refine h.live.resolve_right fun ⟨_, _, a, _⟩ => ?_
  simp [Floor.plate?, Table.get, a] at hp

/-- An event leaves the round, the visits and the broadcast of the line. -/
theorem Reached.line (h : Reached x A B Q fl₀ fl) : fl.line = { fl₀.line with nodes := fl.line.nodes } := by
  induction h with
  | start => rfl
  | nodes f _ _ ih => rw [ih]
  | _ => assumption

theorem map_key {α : Type} {key : α → Nat} {f : α → α} (hf : ∀ a, key (f a) = key a) (l : List α) :
    (l.map f).map key = l.map key := by
  rw [List.map_map]; exact List.map_congr_left fun a _ => hf a

theorem drop_keys {α : Type} {key : α → Nat} (n : Nat) {l : List α} (h : (l.map key).Nodup) :
    ((Table.drop key n l).map key).Nodup := h.sublist (List.Sublist.map _ List.filter_sublist)

theorem get_none_keys {α : Type} {key : α → Nat} {n : Nat} {l : List α} (h : Table.get key n l = none) :
    n ∉ l.map key := by
  intro hm
  obtain ⟨a, ha, rfl⟩ := List.mem_map.1 hm
  have := List.find?_eq_none.1 h a ha
  simp at this

theorem append_keys {α : Type} {key : α → Nat} {a : α} {l : List α} (hl : (l.map key).Nodup)
    (h : Table.get key (key a) l = none) : ((l ++ [a]).map key).Nodup := by
  rw [List.map_append, List.nodup_append]
  refine ⟨hl, by simp, fun b hb c hc => ?_⟩
  rintro rfl
  simp only [List.map_cons, List.map_nil, List.mem_singleton] at hc
  exact get_none_keys h (hc ▸ hb)

/-- An event leaves one entry for each number (R2, R22, R44, R68, R79, R103, R107, R139). -/
theorem Reached.keyed (h : Reached x A B Q fl₀ fl) (h₀ : fl₀.keyed) : fl.keyed := by
  induction h with
  | start => exact h₀
  | runway _ _ ih | freeTaken _ _ ih => exact ih
  | plates f hf _ ih => exact ⟨by rw [map_key fun p => (hf p).1]; exact ih.1, ih.2⟩
  | plateGone id _ ih => exact ⟨Table.sorted_drop _ id ih.1, ih.2⟩
  | plateAdded p _ _ _ ih => exact ⟨Table.sorted_put _ p ih.1, ih.2⟩
  | bays f hf _ ih => exact ⟨ih.1, by rw [map_key hf]; exact ih.2.1, ih.2.2⟩
  | racks f hf _ ih => exact ⟨ih.1, ih.2.1, by rw [map_key hf]; exact ih.2.2.1, ih.2.2.2⟩
  | stations f hf _ _ ih => exact ⟨ih.1, ih.2.1, ih.2.2.1, by rw [map_key hf]; exact ih.2.2.2.1, ih.2.2.2.2⟩
  | counters f hf _ ih =>
    exact ⟨ih.1, ih.2.1, ih.2.2.1, ih.2.2.2.1, by rw [map_key fun c => (hf c).1]; exact ih.2.2.2.2.1, ih.2.2.2.2.2⟩
  | cranes f hf _ _ ih =>
    exact ⟨ih.1, ih.2.1, ih.2.2.1, ih.2.2.2.1, ih.2.2.2.2.1, by rw [map_key fun c => (hf c).1]; exact ih.2.2.2.2.2.1,
      ih.2.2.2.2.2.2⟩
  | grant c g _ _ _ ih | shrink c g _ _ _ _ ih =>
    refine ⟨ih.1, ih.2.1, ih.2.2.1, ih.2.2.2.1, ih.2.2.2.2.1, ?_, ih.2.2.2.2.2.2⟩
    rw [Table.keys_amend _ (by intro k h; exact h)]; exact ih.2.2.2.2.2.1
  | nodes f hf _ ih =>
    obtain ⟨a, b, c, d, e, g, n, r⟩ := ih
    exact ⟨a, b, c, d, e, g, by rw [map_key hf]; exact n, r⟩
  | jobs f hf _ _ ih =>
    obtain ⟨a, b, c, d, e, g, n, r, s⟩ := ih
    exact ⟨a, b, c, d, e, g, n, by rw [map_key hf]; exact r, s⟩
  | jobGone id _ ih =>
    obtain ⟨a, b, c, d, e, g, n, r, s⟩ := ih
    exact ⟨a, b, c, d, e, g, n, drop_keys id r, s⟩
  | jobFirst j _ _ ih =>
    obtain ⟨a, b, c, d, e, g, n, r, s⟩ := ih
    refine ⟨a, b, c, d, e, g, n, List.nodup_cons.2 ⟨?_, drop_keys j.id r⟩, s⟩
    exact get_none_keys (Table.get_drop_self Job.id j.id _)
  | jobAdded j hj _ _ _ ih =>
    obtain ⟨a, b, c, d, e, g, n, r, s⟩ := ih
    exact ⟨a, b, c, d, e, g, n, append_keys r hj, s⟩
  | moves f hf _ _ ih =>
    obtain ⟨a, b, c, d, e, g, n, r, s⟩ := ih
    exact ⟨a, b, c, d, e, g, n, r, by rw [map_key fun m => (hf m).1]; exact s⟩
  | moveGone t _ ih =>
    obtain ⟨a, b, c, d, e, g, n, r, s⟩ := ih
    exact ⟨a, b, c, d, e, g, n, r, drop_keys t s⟩
  | moveAdded m hm _ _ _ _ _ ih =>
    obtain ⟨a, b, c, d, e, g, n, r, s⟩ := ih
    exact ⟨a, b, c, d, e, g, n, r, append_keys s hm⟩

/-- An event leaves every counter running up (R69, R70). -/
theorem Reached.counters_run_up (h : Reached x A B Q fl₀ fl) (h₀ : ∀ c ∈ fl₀.counters, c.runsUp) :
    ∀ c ∈ fl.counters, c.runsUp := by
  induction h with
  | start => exact h₀
  | counters f hf _ ih =>
    intro c hc
    obtain ⟨a, ha, rfl⟩ := List.mem_map.1 hc
    exact (hf a).2 (ih a ha)
  | _ => assumption

/-- An event leaves every plate's figures those of the formulas (R11, R12). -/
theorem Reached.figures (h : Reached x A B Q fl₀ fl) (h₀ : ∀ p ∈ fl₀.plates, p.figuresHold x.cfg) :
    ∀ p ∈ fl.plates, p.figuresHold x.cfg := by
  induction h with
  | start => exact h₀
  | plates f hf _ ih =>
    intro p hp
    obtain ⟨a, ha, rfl⟩ := List.mem_map.1 hp
    exact (hf a).2 (ih a ha)
  | plateGone id _ ih => exact fun p hp => ih p ((Table.mem_drop _).1 hp).1
  | plateAdded q hq _ _ ih =>
    intro p hp
    rcases Table.mem_put _ hp with rfl | hp
    · exact hq
    · exact ih p hp
  | _ => assumption

/-- An event leaves the cranes' numbers. -/
theorem Reached.crane_nums (h : Reached x A B Q fl₀ fl) : fl.cranes.map Crane.num = fl₀.cranes.map Crane.num := by
  induction h with
  | start => rfl
  | cranes f hf _ _ ih => rw [map_key fun c => (hf c).1]; exact ih
  | grant c g _ _ _ ih | shrink c g _ _ _ _ ih => rw [Table.keys_amend _ (by intro k h; exact h)]; exact ih
  | _ => assumption

theorem nums_of_map {l l₀ : List Crane} (h : l.map Crane.num = l₀.map Crane.num) (h₀ : ∀ k ∈ l₀, k.num = 1 ∨ k.num = 2) :
    ∀ k ∈ l, k.num = 1 ∨ k.num = 2 := by
  intro k hk
  obtain ⟨k', hk', he⟩ := List.mem_map.1 (h ▸ List.mem_map_of_mem (f := Crane.num) hk)
  exact he ▸ h₀ k' hk'

/-- An event leaves the cranes known: numbered 1 and 2, and every move that has a crane with one of them. -/
theorem Reached.cranes_known (h : Reached x A B Q fl₀ fl) (hB : B) : fl.cranesKnown := by
  induction h with
  | start _ h => exact h hB
  | moves f hf _ _ ih =>
    refine ⟨fun m hm => ?_, ih.2⟩
    obtain ⟨a, ha, rfl⟩ := List.mem_map.1 hm
    exact (hf a).2 hB (ih.1 a ha)
  | moveGone t _ ih => exact ⟨fun m hm => ih.1 m ((Table.mem_drop _).1 hm).1, ih.2⟩
  | moveAdded q _ hc _ _ _ _ ih =>
    refine ⟨fun m hm => ?_, ih.2⟩
    rcases List.mem_append.1 hm with hm | hm
    · exact ih.1 m hm
    · cases List.mem_singleton.1 hm
      rw [hc]; trivial
  | cranes f hf _ _ ih => exact ⟨ih.1, nums_of_map (map_key (fun c => (hf c).1) _) ih.2⟩
  | grant c g _ _ _ ih | shrink c g _ _ _ _ ih =>
    exact ⟨ih.1, nums_of_map (Table.keys_amend _ (by intro k h; exact h) _) ih.2⟩
  | _ => assumption

/-- The grants of the two cranes keep a separation (R116). -/
def Floor.apartBy (s : Nat) (fl : Floor) : Prop :=
  ∀ a b, (fl.crane? 1).bind Crane.grant = some a → (fl.crane? 2).bind Crane.grant = some b → a.hi + s ≤ b.lo

theorem grant_after (l : List Crane) (c n : Nat) (g : Grant) :
    (Table.get Crane.num n (Table.amend Crane.num c (fun k => { k with grant := some g }) l)).bind Crane.grant
      = if n = c then (Table.get Crane.num n l).bind fun _ => some g else (Table.get Crane.num n l).bind Crane.grant := by
  split
  · subst n
    rw [Table.get_amend_self _ (by intro k h; exact h)]
    cases Table.get Crane.num c l <;> rfl
  · rename_i hn
    rw [Table.get_amend_other _ hn (by intro k h; exact h)]

theorem get_map {α : Type} {key : α → Nat} {f : α → α} (hf : ∀ a, key (f a) = key a) (n : Nat) (l : List α) :
    Table.get key n (l.map f) = (Table.get key n l).map f := by
  unfold Table.get
  rw [List.find?_map]
  congr 2
  funext a; simp [Function.comp, hf]

/-- An event keeps the separation of the cranes' grants (R116, R117). -/
theorem Reached.apart (h : Reached x A B Q fl₀ fl) (hB : B) (h₀ : fl₀.apartBy x.cfg.separation) : fl.apartBy x.cfg.separation := by
  induction h with
  | start => exact h₀
  | cranes f hf _ _ ih =>
    intro a b ha hb
    have hg : ∀ n l, (Table.get Crane.num n (List.map f l)).bind Crane.grant = (Table.get Crane.num n l).bind Crane.grant := by
      intro n l
      rw [get_map fun k => (hf k).1]
      cases Table.get Crane.num n l <;> simp [(hf _).2]
    exact ih a b ((hg 1 _).symm.trans ha) ((hg 2 _).symm.trans hb)
  | @grant fl c g hg _ _ ih =>
    intro a b ha hb
    have ha := (grant_after fl.cranes c 1 g).symm.trans ha
    have hb := (grant_after fl.cranes c 2 g).symm.trans hb
    by_cases h1 : 1 = c
    · subst h1
      rw [if_neg (by decide)] at hb
      rw [if_pos rfl] at ha
      obtain ⟨_, _, hk⟩ := Option.bind_eq_some_iff.1 ha
      cases hk
      have hb' : fl.otherGrant 1 = some b := hb
      simpa [keepsSeparation, hb'] using hg hB
    · by_cases h2 : 2 = c
      · subst h2
        rw [if_neg (by decide)] at ha
        rw [if_pos rfl] at hb
        obtain ⟨_, _, hk⟩ := Option.bind_eq_some_iff.1 hb
        cases hk
        have ha' : fl.otherGrant 2 = some a := ha
        simpa [keepsSeparation, ha'] using hg hB
      · rw [if_neg h1] at ha; rw [if_neg h2] at hb
        exact ih a b ha hb
  | @shrink fl c g old ho hg _ ih =>
    intro a b ha hb
    have ha := (grant_after fl.cranes c 1 g).symm.trans ha
    have hb := (grant_after fl.cranes c 2 g).symm.trans hb
    by_cases h1 : 1 = c
    · subst h1
      rw [if_neg (by decide)] at hb
      rw [if_pos rfl] at ha
      obtain ⟨_, _, hk⟩ := Option.bind_eq_some_iff.1 ha
      cases hk
      have := ih old b ho hb
      omega
    · by_cases h2 : 2 = c
      · subst h2
        rw [if_neg (by decide)] at ha
        rw [if_pos rfl] at hb
        obtain ⟨_, _, hk⟩ := Option.bind_eq_some_iff.1 hb
        cases hk
        have := ih a old ha ho
        omega
      · rw [if_neg h1] at ha; rw [if_neg h2] at hb
        exact ih a b ha hb
  | _ => assumption

/-! ## What no event brings about but a freeze or a hold -/

/-- Every timer that stands in FROZEN goes on standing (R20). -/
theorem Reached.timers_stand (h : Reached x A B Q fl₀ fl) (hx : x.hall = .frozen) (h₀ : fl₀.timersStand) : fl.timersStand := by
  induction h with
  | start => exact h₀
  | stations f _ hk _ ih =>
    refine ⟨fun st hst hr => ?_, ih.2⟩
    obtain ⟨a, ha, rfl⟩ := List.mem_map.1 hst
    exact ih.1 a ha ((hk a).1 hx hr)
  | jobs f _ hk _ ih =>
    refine ⟨ih.1, fun j hj hr => ?_, ih.2.2⟩
    obtain ⟨a, ha, rfl⟩ := List.mem_map.1 hj
    exact ih.2.1 a ha (hk a hx hr)
  | jobFirst j hj _ ih =>
    refine ⟨ih.1, fun k hk => ?_, ih.2.2⟩
    rcases List.mem_cons.1 hk with rfl | hk
    · exact ih.2.1 _ hj
    · exact ih.2.1 k ((Table.mem_drop _).1 hk).1
  | jobAdded j _ ht _ _ ih =>
    refine ⟨ih.1, fun k hk => ?_, ih.2.2⟩
    rcases List.mem_append.1 hk with hk | hk
    · exact ih.2.1 k hk
    · cases List.mem_singleton.1 hk; exact ht hx
  | jobGone id _ ih => exact ⟨ih.1, fun k hk => ih.2.1 k ((Table.mem_drop _).1 hk).1, ih.2.2⟩
  | moves f _ hk _ ih =>
    refine ⟨ih.1, ih.2.1, fun m hm hr => ?_⟩
    obtain ⟨a, ha, rfl⟩ := List.mem_map.1 hm
    exact ih.2.2 a ha ((hk a ha).1 hx hr)
  | moveAdded m _ _ _ ht _ _ ih =>
    refine ⟨ih.1, ih.2.1, fun k hk => ?_⟩
    rcases List.mem_append.1 hk with hk | hk
    · exact ih.2.2 k hk
    · cases List.mem_singleton.1 hk; exact ht hx
  | moveGone t _ ih => exact ⟨ih.1, ih.2.1, fun k hk => ih.2.2 k ((Table.mem_drop _).1 hk).1⟩
  | _ => assumption

/-- A station with HALL, or FROZEN, in its hold set had it before (R51). -/
theorem Reached.station_held (h : Reached x A B Q fl₀ fl) (hQ : Q) : ∀ st ∈ fl.stations, ∃ s₀ ∈ fl₀.stations, s₀.num = st.num
    ∧ (st.hold.hall = true → s₀.hold.hall = true) ∧ (st.hold.frozen = true → s₀.hold.frozen = true) := by
  induction h with
  | start => exact fun st hst => ⟨st, hst, rfl, id, id⟩
  | stations f hf hk _ ih =>
    intro st hst
    obtain ⟨a, ha, rfl⟩ := List.mem_map.1 hst
    obtain ⟨s₀, h₀, hn, hh, hz⟩ := ih a ha
    exact ⟨s₀, h₀, hn.trans (hf a).symm, fun h => hh (((hk a).2.1 hQ).1 h), fun h => hz (((hk a).2.1 hQ).2 h)⟩
  | _ => assumption

/-- An event leaves no station's outbox with two orders of a kind, so with no more than four orders (R47). -/
theorem Reached.boxed (h : Reached x A B Q fl₀ fl) (h₀ : ∀ st ∈ fl₀.stations, st.boxed) : ∀ st ∈ fl.stations, st.boxed := by
  induction h with
  | start => exact h₀
  | stations f _ hk _ ih =>
    intro st hst
    obtain ⟨a, ha, rfl⟩ := List.mem_map.1 hst
    exact (hk a).2.2 (ih a ha)
  | _ => assumption

/-- A crane with FROZEN among its stop causes had it before (R106). -/
theorem Reached.crane_stopped (h : Reached x A B Q fl₀ fl) (hQ : Q) : ∀ k ∈ fl.cranes, ∃ k₀ ∈ fl₀.cranes, k₀.num = k.num
    ∧ (k.stopFrozen = true → k₀.stopFrozen = true) := by
  induction h with
  | start => exact fun k hk => ⟨k, hk, rfl, id⟩
  | cranes f hf hk _ ih =>
    intro k hm
    obtain ⟨a, ha, rfl⟩ := List.mem_map.1 hm
    obtain ⟨k₀, h₀, hn, hh⟩ := ih a ha
    exact ⟨k₀, h₀, hn.trans (hf a).1.symm, fun h => hh (hk a hQ h)⟩
  | grant c g _ _ _ ih | shrink c g _ _ _ _ ih =>
    intro k hm
    obtain ⟨a, ha, rfl⟩ := List.mem_map.1 hm
    obtain ⟨k₀, h₀, hn, hh⟩ := ih a ha
    refine ⟨k₀, h₀, ?_⟩
    split
    · exact ⟨hn, hh⟩
    · exact ⟨hn, hh⟩
  | _ => assumption

/-- A move suspended with FROZEN was so before (R127). -/
theorem Reached.move_held (h : Reached x A B Q fl₀ fl) (hQ : Q) : ∀ m ∈ fl.moves, m.heldFrozen →
    ∃ m₀ ∈ fl₀.moves, m₀.tag = m.tag ∧ m₀.heldFrozen := by
  induction h with
  | start => exact fun m hm hz => ⟨m, hm, rfl, hz⟩
  | moves f hf hk _ ih =>
    intro m hm hz
    obtain ⟨a, ha, rfl⟩ := List.mem_map.1 hm
    obtain ⟨k, hm, ht, hz⟩ := (hk a ha).2 hQ hz
    obtain ⟨m₀, h₀, hn, h'⟩ := ih k hm hz
    exact ⟨m₀, h₀, (hn.trans ht).trans (hf a).1.symm, h'⟩
  | moveAdded q _ _ hs _ _ _ ih =>
    intro m hm hz
    rcases List.mem_append.1 hm with hm | hm
    · exact ih m hm hz
    · cases List.mem_singleton.1 hm
      obtain ⟨p, z, hq, _⟩ := hz
      rw [hs] at hq; cases hq
  | moveGone t _ ih => exact fun m hm hz => ih m ((Table.mem_drop _).1 hm).1 hz
  | _ => assumption
end

end Sys2Proof.Machine
end

