-- ==== Sys2Proof/Laws/Floor.lean ====
section
/-! SUPPORT. The operations of Machine/Ops.lean, Queue.lean, Stock.lean and Marks.lean as sequences of elementary changes: one
lemma for each, under the operation's name. -/
namespace Sys2Proof.Machine

-- One theorem after the other: the package compiled as one text must not start a thread for each.
set_option Elab.async false

section
variable {x : Ctx} {A B Q : Prop} {fl₀ : Floor} {w : Work}

/-! ## Sequences, choices and loops -/

theorem Reached.ite {c : Prop} [Decidable c] {v : Work} (h₁ : c → Reached x A B Q fl₀ w.fl) (h₂ : ¬ c → Reached x A B Q fl₀ v.fl) :
    Reached x A B Q fl₀ (if c then w else v).fl := by
  split
  · exact h₁ ‹_›
  · exact h₂ ‹_›

theorem Reached.foldl {β : Type} {f : Work → β → Work} (hf : ∀ w b, Reached x A B Q fl₀ w.fl → Reached x A B Q fl₀ (f w b).fl) :
    ∀ (l : List β) {w : Work}, Reached x A B Q fl₀ w.fl → Reached x A B Q fl₀ (l.foldl f w).fl
  | [], _, h => h
  | b :: l, w, h => Reached.foldl hf l (hf w b h)

/-! ## Notices and what is due -/

theorem Reached.note (b : NoticeBody) (h : Reached x A B Q fl₀ w.fl) : Reached x A B Q fl₀ (w.note x b).fl := h
theorem Reached.wantScan (h : Reached x A B Q fl₀ w.fl) : Reached x A B Q fl₀ w.wantScan.fl := h
theorem Reached.wantServe (h : Reached x A B Q fl₀ w.fl) : Reached x A B Q fl₀ w.wantServe.fl := h
theorem Reached.slotFreed (h : Reached x A B Q fl₀ w.fl) : Reached x A B Q fl₀ w.slotFreed.fl := h
theorem Reached.wantExamine (h : Reached x A B Q fl₀ w.fl) : Reached x A B Q fl₀ w.wantExamine.fl := h

/-- Notices leave the floor. -/
@[simp] theorem Work.noteStation_fl (n : Nat) (c : StationCause) (r : Option HoldReason) :
    (w.noteStation x n c r).fl = w.fl := by
  unfold Work.noteStation
  split
  · rfl
  · split
    · rfl
    · split <;> rfl
    · rfl
@[simp] theorem Work.noteMove_fl (c : MoveCause) (m : Move) (e : Option MoveEnd) : (w.noteMove x c m e).fl = w.fl := rfl
@[simp] theorem Work.noteMoveTag_fl (c : MoveCause) (t : Nat) : (w.noteMoveTag x c t).fl = w.fl := by
  unfold Work.noteMoveTag; split <;> rfl
@[simp] theorem Work.noteCrane_fl (n : Nat) (c : CraneCause) : (w.noteCrane x n c).fl = w.fl := by
  unfold Work.noteCrane; split <;> rfl
@[simp] theorem Work.noteJob_fl (j : Nat) (c : JobCause) (r m : Option Nat) : (w.noteJob x j c r m).fl = w.fl := by
  unfold Work.noteJob; split <;> rfl
@[simp] theorem Work.noteSlot_fl (r n : Nat) (c : SlotCause) : (w.noteSlot x r n c).fl = w.fl := by
  unfold Work.noteSlot; split <;> rfl
@[simp] theorem Work.noteSerial_fl (c : Nat) (e : SerialCause) : (w.noteSerial x c e).fl = w.fl := by
  unfold Work.noteSerial; split <;> rfl
@[simp] theorem Work.noteEntry_fl (n : Nat) (c : EntryCause) (e : InProgress) (o : Option Bool) (r : Option FailReason)
    (a p : Nat) : (w.noteEntry x n c e o r a p).fl = w.fl := rfl
@[simp] theorem Work.noteWear_fl (n old new : Nat) : (w.noteWear x n old new).fl = w.fl := by
  unfold Work.noteWear; dsimp only; split <;> split <;> rfl

theorem Reached.noteStation (n : Nat) (c : StationCause) (r : Option HoldReason) (h : Reached x A B Q fl₀ w.fl) :
    Reached x A B Q fl₀ (w.noteStation x n c r).fl := by simpa using h
theorem Reached.noteMove (c : MoveCause) (m : Move) (e : Option MoveEnd) (h : Reached x A B Q fl₀ w.fl) :
    Reached x A B Q fl₀ (w.noteMove x c m e).fl := h
theorem Reached.noteMoveTag (c : MoveCause) (t : Nat) (h : Reached x A B Q fl₀ w.fl) :
    Reached x A B Q fl₀ (w.noteMoveTag x c t).fl := by simpa using h
theorem Reached.noteCrane (n : Nat) (c : CraneCause) (h : Reached x A B Q fl₀ w.fl) :
    Reached x A B Q fl₀ (w.noteCrane x n c).fl := by simpa using h
theorem Reached.noteJob (j : Nat) (c : JobCause) (r m : Option Nat) (h : Reached x A B Q fl₀ w.fl) :
    Reached x A B Q fl₀ (w.noteJob x j c r m).fl := by simpa using h
theorem Reached.noteSlot (r n : Nat) (c : SlotCause) (h : Reached x A B Q fl₀ w.fl) :
    Reached x A B Q fl₀ (w.noteSlot x r n c).fl := by simpa using h
theorem Reached.noteSerial (c : Nat) (e : SerialCause) (h : Reached x A B Q fl₀ w.fl) :
    Reached x A B Q fl₀ (w.noteSerial x c e).fl := by simpa using h

/-! ## Records changed -/

theorem amended {α : Type} {key : α → Nat} {n : Nat} {f : α → α} (hf : ∀ a, key a = n → key (f a) = n) (a : α) :
    key (if key a = n then f a else a) = key a := by
  split
  · rename_i h; rw [hf a h, h]
  · rfl

/-- Either branch of a choice. -/
theorem ite' {α : Type} {c : Prop} [Decidable c] {P : α → Prop} {a b : α} (ha : c → P a) (hb : ¬ c → P b) :
    P (if c then a else b) := by
  split
  · exact ha ‹_›
  · exact hb ‹_›

theorem Reached.onStation {n : Nat} {f : Station → Station} (h : Reached x A B Q fl₀ w.fl)
    (hf : ∀ s, s.num = n → (f s).num = n := by intro _ h; exact h)
    (hk : ∀ s : Station, s.keeps x.hall Q (f s) := by
      intro _; exact ⟨fun _ h => h, fun _ => ⟨fun h => h, fun h => h⟩, fun h => h⟩) :
    Reached x A B Q fl₀ (w.onStation n f).fl :=
  .stations _ (amended hf) (fun s => ite' (fun _ => hk s) fun _ => s.keeps_rfl) h
theorem Reached.onBay {n : Nat} {f : Bay → Bay} (h : Reached x A B Q fl₀ w.fl)
    (hf : ∀ s, s.num = n → (f s).num = n := by intro _ h; exact h) : Reached x A B Q fl₀ (w.onBay n f).fl :=
  .bays _ (amended hf) h
theorem Reached.onJob {n : Nat} {f : Job → Job} (h : Reached x A B Q fl₀ w.fl)
    (hf : ∀ s, s.id = n → (f s).id = n := by intro _ h; exact h)
    (hk : ∀ s : Job, s.id = n → x.hall = .frozen → (f s).timer.state = .running → s.timer.state = .running := by
      intro _ _ _ h; exact h) : Reached x A B Q fl₀ (w.onJob n f).fl :=
  .jobs _ (amended hf) (fun s hx => by
    split
    · rename_i hs; exact hk s hs hx
    · exact fun h => h) h
theorem Reached.onNode {n : Nat} {f : Node → Node} (h : Reached x A B Q fl₀ w.fl)
    (hf : ∀ s, s.address = n → (f s).address = n := by intro _ h; exact h) : Reached x A B Q fl₀ (w.onNode n f).fl :=
  .nodes _ (amended hf) h
theorem Reached.onMove {n : Nat} {f : Move → Move} (h : Reached x A B Q fl₀ w.fl)
    (hf : ∀ s, s.tag = n → (f s).tag = n := by intro _ h; exact h)
    (hc : ∀ s, B → isCrane s.crane → isCrane (f s).crane := by intro _ _ h; exact h)
    (hk : ∀ s ∈ w.fl.moves, s.tag = n → s.keeps x.hall Q w.fl.moves (f s) := by
      intro _ hs _; exact ⟨fun _ h => h, fun _ hz => ⟨_, hs, rfl, hz⟩⟩) : Reached x A B Q fl₀ (w.onMove n f).fl := by
  refine .moves _ (fun m => ⟨amended hf m, fun hB h => ?_⟩) (fun m hm => ite' (fun ht => hk m hm ht) fun _ => Move.keeps_rfl hm) h
  split
  · exact hc m hB h
  · exact h
/-- A move taken to a state other than SUSPENDED. -/
theorem Reached.setState {n : Nat} {f : Move → Move} (h : Reached x A B Q fl₀ w.fl)
    (hf : ∀ s, s.tag = n → (f s).tag = n := by intro _ h; exact h)
    (hc : ∀ s, B → isCrane s.crane → isCrane (f s).crane := by intro _ _ h; exact h)
    (hs : ∀ s p z, (f s).state ≠ .suspended p z := by intro _ _ _ h; cases h)
    (hw : ∀ s : Move, s.wait.keeps x.hall (f s).wait := by intro _ _ h; exact h) :
    Reached x A B Q fl₀ (w.onMove n f).fl :=
  h.onMove hf hc fun s _ _ => ⟨hw s, fun _ ⟨p, z, h, _⟩ => absurd h (hs s p z)⟩

theorem Reached.onCrane {n : Nat} {f : Crane → Crane} (h : Reached x A B Q fl₀ w.fl)
    (hf : ∀ s, s.num = n → (f s).num = n := by intro _ h; exact h) (hg : ∀ s, (f s).grant = s.grant := by intro _; rfl)
    (hk : ∀ k : Crane, k.keeps Q (f k) := by intro _ _ h; exact h) : Reached x A B Q fl₀ (w.onCrane n f).fl := by
  refine .cranes _ (fun k => ⟨amended hf k, ?_⟩) (fun k => ite' (fun _ => hk k) fun _ _ h => h) h
  split
  · exact hg k
  · rfl
theorem Reached.onCounter {n : Nat} {f : Counter → Counter} (h : Reached x A B Q fl₀ w.fl)
    (hf : ∀ s, s.id = n → (f s).id = n) (hr : ∀ s, s.runsUp → (f s).runsUp) :
    Reached x A B Q fl₀ (w.onCounter n f).fl := by
  refine .counters _ (fun c => ⟨amended hf c, fun h => ?_⟩) h
  split
  · exact hr c h
  · exact h

/-- A change of a plate that leaves its figures. -/
theorem Reached.plates' {f : Plate → Plate} (h : Reached x A B Q fl₀ w.fl)
    (hf : ∀ p, (f p).id = p.id ∧ (f p).len = p.len ∧ (f p).wid = p.wid ∧ (f p).notch = p.notch ∧ (f p).area = p.area
      ∧ (f p).mass = p.mass ∧ (f p).thickness = p.thickness ∧ (f p).grade = p.grade) :
    Reached x A B Q fl₀ { w.fl with plates := w.fl.plates.map f } := by
  refine .plates _ (fun p => ⟨(hf p).1, fun hp => ?_⟩) h
  obtain ⟨_, a, b, c, d, e, f, g⟩ := hf p
  unfold Plate.figuresHold
  rw [a, b, c, d, e, f, g]
  exact hp

theorem Reached.setHold (id : Nat) (v : Hold) (h : Reached x A B Q fl₀ w.fl) : Reached x A B Q fl₀ (w.setHold id v).fl :=
  h.plates' (f := fun p => if p.id = id then { p with hold := v } else p) fun p => by
    split <;> exact ⟨rfl, rfl, rfl, rfl, rfl, rfl, rfl, rfl⟩
theorem Reached.freePlate (id : Nat) (h : Reached x A B Q fl₀ w.fl) : Reached x A B Q fl₀ (w.freePlate id).fl := h.setHold id _
theorem Reached.setLocation (id : Nat) (l : Location) (h : Reached x A B Q fl₀ w.fl) :
    Reached x A B Q fl₀ (w.setLocation id l).fl :=
  h.plates' (f := fun p => if p.id = id then { p with location := l } else p) fun p => by
    split <;> exact ⟨rfl, rfl, rfl, rfl, rfl, rfl, rfl, rfl⟩

theorem Reached.onRack {r : Nat} {f : Rack → Rack} (h : Reached x A B Q fl₀ w.fl)
    (hf : ∀ s, s.num = r → (f s).num = r := by intro _ h; exact h) : Reached x A B Q fl₀ (w.onRack r f).fl := by
  unfold Work.onRack
  split
  · exact h
  · rename_i old ho
    exact .racks _ (amended (f := fun _ => f old) fun _ _ => hf old (Table.key_of_get _ ho)) h
theorem Reached.onSlot (r n : Nat) (f : Slot → Slot) (h : Reached x A B Q fl₀ w.fl) : Reached x A B Q fl₀ (w.onSlot r n f).fl :=
  h.onRack

theorem Reached.leavePlace (id : Nat) (l : Location) (h : Reached x A B Q fl₀ w.fl) :
    Reached x A B Q fl₀ (w.leavePlace id l).fl := by
  unfold Work.leavePlace
  split
  · refine h.onBay.plates' fun p => ?_
    unfold lowerAbove
    split
    · split <;> exact ⟨rfl, rfl, rfl, rfl, rfl, rfl, rfl, rfl⟩
    · exact ⟨rfl, rfl, rfl, rfl, rfl, rfl, rfl, rfl⟩
  · exact h
  · exact h.onStation
  · exact h.onSlot _ _ _

theorem Reached.deletePlate (id : Nat) (h : Reached x A B Q fl₀ w.fl) : Reached x A B Q fl₀ (w.deletePlate id).fl := by
  unfold Work.deletePlate
  split
  · exact h
  · exact .plateGone id (h.leavePlace id _)

theorem Reached.pushBay (b id : Nat) (h : Reached x A B Q fl₀ w.fl) : Reached x A B Q fl₀ (w.pushBay b id).fl := h.onBay

theorem Reached.addPlate (p : Plate) (hp : p.figuresHold x.cfg) (hA : A) (h : Reached x A B Q fl₀ w.fl) :
    Reached x A B Q fl₀ (w.addPlate p).fl := .plateAdded p hp hA h

/-! ## Moves -/

theorem Reached.claimEnded (p : Place) (h : Reached x A B Q fl₀ w.fl) : Reached x A B Q fl₀ (w.claimEnded p).fl := by
  unfold Work.claimEnded
  split
  · split <;> exact h
  · exact h

theorem Reached.removeMove (m : Move) (h : Reached x A B Q fl₀ w.fl) : Reached x A B Q fl₀ (w.removeMove m).fl := by
  unfold Work.removeMove
  refine wantScan (claimEnded _ (ite (fun _ => ?_) fun _ => ?_))
  · exact .moveGone m.tag h
  · exact .moveGone m.tag h

theorem Reached.deleteMove (t : Nat) (h : Reached x A B Q fl₀ w.fl) : Reached x A B Q fl₀ (w.deleteMove x t).fl := by
  unfold Work.deleteMove
  split
  · exact (h.noteMove _ _ _).removeMove _
  · exact h

theorem Reached.createMove (origin : Origin) (kind : MoveKind) (load : Load) (pickup : Option Place) (drop : Place)
    (expedite : Bool) (waits : Option Nat) (hA : A) (h : Reached x A B Q fl₀ w.fl) :
    Reached x A B Q fl₀ (w.createMove x origin kind load pickup drop expedite waits).2.fl := by
  unfold Work.createMove
  split
  · exact h
  · rename_i t ht
    refine .moveAdded _ ?_ rfl rfl (fun _ h => nomatch h) hA h
    have := List.find?_some ht
    simpa using this

/-! ## Queues and outboxes -/

/-- An order handed to a node keeps its address. -/
theorem Node.hand_address {o : Order} {n : Node} {r : Nat × Node} (h : n.hand o = some r) : r.2.address = n.address := by
  unfold Node.hand at h
  split at h
  · obtain ⟨k, _, rfl⟩ := Option.map_eq_some_iff.1 h; rfl
  · cases h

/-- An order withdrawn keeps the node's address. -/
theorem Node.withdraw_address {k : Nat} {n m : Node} (h : n.withdraw k = some m) : m.address = n.address := by
  unfold Node.withdraw at h
  split at h
  · cases h
  · cases h; rfl

/-- An order handed to a node changes its node record alone. -/
theorem Work.handOrder_some {a : Nat} {o : Order} {r : Nat × Work} (h : w.handOrder x a o = some r) :
    x.hall ≠ .frozen ∧ ∃ n m, w.fl.node? a = some n ∧ n.hand o = some (r.1, m) ∧ r.2 = w.onNode a fun _ => m := by
  unfold Work.handOrder at h
  split at h
  · cases h
  · rename_i hx
    obtain ⟨q, hq, rfl⟩ := Option.map_eq_some_iff.1 h
    obtain ⟨n, hn, hq⟩ := Option.bind_eq_some_iff.1 hq
    exact ⟨hx, n, q.2, hn, hq, rfl⟩

theorem Reached.handOrder {a : Nat} {o : Order} {r : Nat × Work} (hr : w.handOrder x a o = some r)
    (h : Reached x A B Q fl₀ w.fl) : Reached x A B Q fl₀ r.2.fl := by
  obtain ⟨_, n, m, hn, hm, hw⟩ := Work.handOrder_some hr
  rw [hw]
  exact h.onNode fun _ _ => (Node.hand_address hm).trans (Table.key_of_get _ hn)

theorem Reached.drainCrane (c : Nat) : ∀ (fuel : Nat) {w : Work}, Reached x A B Q fl₀ w.fl →
    Reached x A B Q fl₀ (drainCrane x c fuel w).fl
  | 0, _, h => h
  | fuel + 1, w, h => by
    unfold Machine.drainCrane
    split
    · exact h
    · split
      · exact h
      · split
        · exact h
        · rename_i hr
          exact Reached.drainCrane c fuel (h.handOrder hr).onCrane

theorem Reached.craneOrder (c : Nat) (o : Order) (h : Reached x A B Q fl₀ w.fl) : Reached x A B Q fl₀ (w.craneOrder x c o).fl :=
  .drainCrane c 5 h.onCrane

theorem Reached.askStop (a : Nat) (h : Reached x A B Q fl₀ w.fl) : Reached x A B Q fl₀ (w.askStop a).fl := h.onNode

/-! ## Jobs closed, disputes, sensing -/

theorem Reached.closeJob (id : Nat) (o : JobOutcome) (f : Option (Nat × Nat)) (h : Reached x A B Q fl₀ w.fl) :
    Reached x A B Q fl₀ (w.closeJob x id o f).fl := by
  unfold Work.closeJob
  split
  · exact h
  · exact .jobGone id h

theorem Reached.setDispute (r n : Nat) (d : Dispute) (c : SlotCause) (h : Reached x A B Q fl₀ w.fl) :
    Reached x A B Q fl₀ (w.setDispute x r n d c).fl := (h.onSlot r n _).noteSlot r n c

/-- A staging move that is WAITING deleted. -/
theorem Reached.dropStaging (t : Option Nat) (h : Reached x A B Q fl₀ w.fl) :
    Reached x A B Q fl₀ (match t with
      | some t => if (w.fl.move? t).any fun m : Move => m.state == MoveState.waiting then w.deleteMove x t else w
      | none => w).fl := by
  split
  · exact ite (fun _ => h.deleteMove _) fun _ => h
  · exact h

theorem Reached.loseMaterial (id : Nat) (h : Reached x A B Q fl₀ w.fl) : Reached x A B Q fl₀ (w.loseMaterial x id).fl :=
  (h.dropStaging _).closeJob _ _ _

theorem Reached.plateMissing (id : Nat) (h : Reached x A B Q fl₀ w.fl) : Reached x A B Q fl₀ (w.plateMissing x id).fl := by
  unfold Work.plateMissing
  split
  · exact h
  · dsimp only
    split
    · exact (h.setHold _ _).loseMaterial _
    · exact (h.setHold _ _).loseMaterial _
    · exact h.setHold _ _

theorem Reached.plateFound (id : Nat) (h : Reached x A B Q fl₀ w.fl) : Reached x A B Q fl₀ (w.plateFound id).fl := by
  unfold Work.plateFound; exact ite (fun _ => h.setHold _ _) fun _ => h

theorem Reached.evaluateSlot (r n : Nat) (c : SlotCause) (h : Reached x A B Q fl₀ w.fl) :
    Reached x A B Q fl₀ (w.evaluateSlot x r n c).fl := by
  unfold Work.evaluateSlot
  split
  · exact h
  · split
    · exact ite (fun _ => h) fun _ => (h.setDispute r n _ c).plateMissing _
    · exact ite (fun _ => h) fun _ => h.setDispute r n _ c
    · exact (ite (fun _ => h) fun _ => h.setDispute r n _ c).plateFound _
    · exact ite (fun _ => h) fun _ => h.setDispute r n _ c
    · exact h

theorem Reached.senseSlot (r n : Nat) (f : Sensed) (h : Reached x A B Q fl₀ w.fl) :
    Reached x A B Q fl₀ (w.senseSlot x r n f).fl := by
  unfold Work.senseSlot
  split
  · exact h
  · dsimp only
    refine ite (fun _ => h.onSlot _ _ _) fun _ => ite (fun _ => h.onSlot _ _ _) fun _ => ?_
    exact ite (fun _ => ((h.onSlot _ _ _).evaluateSlot _ _ _).onSlot _ _ _) fun _ => (h.onSlot _ _ _).evaluateSlot _ _ _

theorem Reached.senseSlots (r : Nat) : ∀ (ns : List Nat) (fs : List Bool) {w : Work}, Reached x A B Q fl₀ w.fl →
    Reached x A B Q fl₀ (senseSlots x r ns fs w).fl
  | [], _, _, h => h
  | n :: ns, [], _, h => Reached.senseSlots r ns [] (h.onSlot r n _)
  | n :: ns, _ :: fs, _, h => Reached.senseSlots r ns fs (h.senseSlot r n _)

theorem Reached.rackReport (r : Nat) (fs : List Bool) (h : Reached x A B Q fl₀ w.fl) :
    Reached x A B Q fl₀ (w.rackReport x r fs).fl := by
  unfold Work.rackReport
  split
  · exact h
  · exact h.senseSlots _ _ _

theorem Reached.rackLost (r : Nat) (h : Reached x A B Q fl₀ w.fl) : Reached x A B Q fl₀ (w.rackLost r).fl :=
  h.onRack fun s hs => by split <;> exact hs
theorem Reached.rackUp (r : Nat) (h : Reached x A B Q fl₀ w.fl) : Reached x A B Q fl₀ (w.rackUp r).fl := h.onRack

/-! ## Marks -/

/-- A draw keeps a counter running up (R69, R70). -/
theorem Counter.draw_runsUp (d : Draw) {c : Counter} (h : c.runsUp) : (c.draw d).runsUp := by
  have hi : c.toIssue < 10 ^ c.worstWidth := by
    unfold Counter.toIssue
    cases hn : c.next with
    | none => exact Nat.pow_pos (by decide)
    | some n => exact h.2 n hn
  unfold Counter.draw
  split
  · exact ⟨fun l _ => .inl rfl, h.2⟩
  · rename_i hne
    refine ⟨fun l hl => .inr ⟨c.toIssue + 1, rfl, ?_⟩, fun k hk => ?_⟩
    · cases hl; omega
    · cases hk
      show c.toIssue + 1 < 10 ^ c.worstWidth
      have : c.toIssue ≠ 10 ^ c.worstWidth - 1 := hne
      omega

theorem Reached.draw (c : Nat) (d : Draw) (h : Reached x A B Q fl₀ w.fl) :
    Reached x A B Q fl₀ (w.onCounter c (Counter.draw d)).fl :=
  h.onCounter (fun s hs => by unfold Counter.draw; split <;> exact hs) fun _ => Counter.draw_runsUp d

theorem Reached.renderFields (src : MarkSource) (d : Draw) : ∀ (fs : List Field) {w : Work}, Reached x A B Q fl₀ w.fl →
    Reached x A B Q fl₀ (Machine.renderFields x src d fs w).2.fl
  | [], _, h => h
  | f :: fs, w, h => by
    unfold Machine.renderFields
    refine Reached.renderFields src d fs ?_
    cases f with
    | serial c =>
      dsimp only
      split
      · exact h
      · exact ite (fun _ => (h.draw c d).noteSerial c _) fun _ => h.draw c d
    | _ => exact h

theorem Reached.compose (t : Nat) (src : MarkSource) (d : Draw) (h : Reached x A B Q fl₀ w.fl) :
    Reached x A B Q fl₀ (w.compose x t src d).2.fl := by
  unfold Work.compose
  dsimp only
  split
  · exact h.noteSerial _ _
  · exact h.renderFields _ _ _

end

end Sys2Proof.Machine
end

