-- ==== Sys2Proof/Laws/Flow.lean ====
section
/-! SUPPORT. What the Station Sequencers and the flow of a job can do to the floor: each operation is a sequence of the
elementary changes of Sys2Proof/Laws/Reached.lean. -/
namespace Sys2Proof.Machine

-- One theorem after the other: the package compiled as one text must not start a thread for each.
set_option Elab.async false

section
variable {x : Ctx} {A B Q : Prop} {fl₀ : Floor} {w : Work}

/-! ## States, hold reasons and orders of a station -/

/-- A station keeps its number. -/
@[simp] theorem Station.goTo_num (hall : HallState) (code : Nat) (s : StationState) (st : Station) :
    (st.goTo hall code s).num = st.num := by unfold Station.goTo; split <;> rfl
@[simp] theorem Station.dropEntryOrder_num (st : Station) : st.dropEntryOrder.num = st.num := by
  unfold Station.dropEntryOrder; split <;> rfl
@[simp] theorem Station.onReason_num (hall : HallState) (code : Nat) (st : Station) :
    (st.onReason hall code).num = st.num := by
  unfold Station.onReason; split
  · split <;> simp
  · rfl
@[simp] theorem Station.rearm_num (hall : HallState) (code : Nat) (o : Order) (st : Station) :
    (st.rearm hall code o).num = st.num := by unfold Station.rearm; split <;> rfl
@[simp] theorem Station.produce_num (o : Order) (st : Station) : (st.produce o).num = st.num := rfl
@[simp] theorem Station.produce_hold (o : Order) (st : Station) : (st.produce o).hold = st.hold := rfl
@[simp] theorem Station.produce_park (o : Order) (st : Station) : (st.produce o).park = st.park := rfl
@[simp] theorem Station.produce_outbox (o : Order) (st : Station) :
    (st.produce o).outbox = st.outbox.filter (·.outboxKind != o.outboxKind) ++ [o] := rfl
@[simp] theorem Station.orderEntry_num (o : Order) (st : Station) : (st.orderEntry o).num = st.num := by
  unfold Station.orderEntry; split
  · split <;> rfl
  · rfl

/-- Fewer orders in an outbox leave no two of a kind in it. -/
theorem Station.boxed.less {s s' : Station} (h : s.boxed) (hs : List.Sublist s'.outbox s.outbox) : s'.boxed :=
  List.Nodup.sublist (hs.map _) h

/-- What `produce` can do: it leaves no two orders of a kind in an outbox that had none, and the order it puts in is its
last. -/
theorem Station.boxed.produce {s : Station} (h : s.boxed) (o : Order) : (s.produce o).boxed := by
  have hf := h.less (s' := { s with outbox := s.outbox.filter (·.outboxKind != o.outboxKind) }) List.filter_sublist
  simp only [Station.boxed, Station.produce_outbox, List.map_append, List.map_cons, List.map_nil] at hf ⊢
  refine List.nodup_append.2 ⟨hf, by simp, ?_⟩
  intro a ha b hb
  obtain ⟨q, hq, rfl⟩ := List.mem_map.1 ha
  cases List.mem_singleton.1 hb
  simpa using (List.mem_filter.1 hq).2

theorem Station.boxed.orderEntry {s : Station} (h : s.boxed) (o : Order) : (s.orderEntry o).boxed := by
  unfold Station.orderEntry; split
  · split
    · exact (h.less (s' := { s with outbox := s.outbox.filter (· != .park), parked := false }) List.filter_sublist).produce o
    · exact (h.less (s' := { s with parked := false }) (List.Sublist.refl _)).produce _ |>.produce o
  · exact h.produce o
theorem Station.boxed.dropEntryOrder {s : Station} (h : s.boxed) : s.dropEntryOrder.boxed := by
  unfold Station.dropEntryOrder; split
  · exact h.less List.filter_sublist
  · exact h

/-- A timer started in FROZEN stands (R20). -/
theorem Timer.start_keeps (hall : HallState) (code : Nat) (t : Timer) : t.keeps hall (Timer.start hall code) := by
  intro hx h
  simp [Timer.start, hx] at h

/-- A timer stopped stands. -/
theorem Timer.stop_keeps (hall : HallState) (t : Timer) : t.keeps hall t.stop := fun _ h => nomatch h

/-- A change of a station that leaves its hold set, and starts or stops its park timer or leaves it. -/
theorem Station.keeps_of {hall : HallState} {s s' : Station} (hp : s.park.keeps hall s'.park) (hh : s'.hold = s.hold)
    (hb : s.boxed → s'.boxed) : s.keeps hall Q s' := ⟨hp, fun _ => by rw [hh]; exact ⟨fun h => h, fun h => h⟩, hb⟩

@[simp] theorem Station.goTo_hold (hall : HallState) (code : Nat) (s : StationState) (st : Station) :
    (st.goTo hall code s).hold = st.hold := by unfold Station.goTo; split <;> rfl
@[simp] theorem Station.dropEntryOrder_hold (st : Station) : st.dropEntryOrder.hold = st.hold := by
  unfold Station.dropEntryOrder; split <;> rfl
@[simp] theorem Station.dropEntryOrder_park (st : Station) : st.dropEntryOrder.park = st.park := by
  unfold Station.dropEntryOrder; split <;> rfl
@[simp] theorem Station.onReason_hold (hall : HallState) (code : Nat) (st : Station) :
    (st.onReason hall code).hold = st.hold := by
  unfold Station.onReason; split
  · split <;> simp
  · rfl
@[simp] theorem Station.rearm_hold (hall : HallState) (code : Nat) (o : Order) (st : Station) :
    (st.rearm hall code o).hold = st.hold := by unfold Station.rearm; split <;> rfl
@[simp] theorem Station.orderEntry_hold (o : Order) (st : Station) : (st.orderEntry o).hold = st.hold := by
  unfold Station.orderEntry; split
  · split <;> rfl
  · rfl
@[simp] theorem Station.orderEntry_park (o : Order) (st : Station) : (st.orderEntry o).park = st.park := by
  unfold Station.orderEntry; split
  · split <;> rfl
  · rfl

@[simp] theorem Station.goTo_outbox (hall : HallState) (code : Nat) (s : StationState) (st : Station) :
    (st.goTo hall code s).outbox = st.outbox := by unfold Station.goTo; split <;> rfl
@[simp] theorem Station.rearm_outbox (hall : HallState) (code : Nat) (o : Order) (st : Station) :
    (st.rearm hall code o).outbox = st.outbox := by unfold Station.rearm; split <;> rfl
theorem Station.boxed.onReason {s : Station} (h : s.boxed) (hall : HallState) (code : Nat) :
    (s.onReason hall code).boxed := by
  unfold Station.onReason; split
  · split
    · exact h.less (by simp)
    · exact h.dropEntryOrder.less (by simp)
  · exact h

theorem Station.goTo_park (hall : HallState) (code : Nat) (s : StationState) (st : Station) :
    st.park.keeps hall (st.goTo hall code s).park := by
  unfold Station.goTo; split
  · exact st.park.start_keeps hall code
  · exact st.park.stop_keeps hall
theorem Station.onReason_park (hall : HallState) (code : Nat) (st : Station) :
    st.park.keeps hall (st.onReason hall code).park := by
  unfold Station.onReason; split
  · split
    · exact st.goTo_park hall code _
    · have := st.dropEntryOrder.goTo_park hall code .held
      rwa [Station.dropEntryOrder_park] at this
  · exact fun _ h => h
theorem Station.rearm_park (hall : HallState) (code : Nat) (o : Order) (st : Station) :
    st.park.keeps hall (st.rearm hall code o).park := by
  unfold Station.rearm; split
  · exact st.park.start_keeps hall code
  · exact fun _ h => h

theorem Reached.enter (n : Nat) (s : StationState) (h : Reached x A B Q fl₀ w.fl) : Reached x A B Q fl₀ (w.enter x n s).fl :=
  h.onStation (fun st hs => by simpa using hs) fun st => Station.keeps_of (st.goTo_park _ _ _) (by simp) fun hb => hb.less (by simp)
theorem Reached.changeState (n : Nat) (s : StationState) (h : Reached x A B Q fl₀ w.fl) :
    Reached x A B Q fl₀ (w.changeState x n s).fl := (h.enter n s).noteStation _ _ _
theorem Reached.noteEntry (n : Nat) (c : EntryCause) (e : InProgress) (o : Option Bool) (r : Option FailReason) (a p : Nat)
    (h : Reached x A B Q fl₀ w.fl) : Reached x A B Q fl₀ (w.noteEntry x n c e o r a p).fl := h

theorem Reached.withdraw {a k : Nat} {m : Node} (hm : (w.fl.node? a).bind (Node.withdraw k) = some m)
    (h : Reached x A B Q fl₀ w.fl) : Reached x A B Q fl₀ (w.onNode a fun _ => m).fl := by
  obtain ⟨n, hn, hm⟩ := Option.bind_eq_some_iff.1 hm
  exact h.onNode fun _ _ => (Node.withdraw_address hm).trans (Table.key_of_get _ hn)

theorem Reached.withdrawFrozen (n : Nat) (h : Reached x A B Q fl₀ w.fl) : Reached x A B Q fl₀ (w.withdrawFrozen x n).fl := by
  unfold Work.withdrawFrozen
  split
  · exact h
  · split
    · exact h
    · rename_i hm
      exact ((h.withdraw hm).onStation.noteEntry _ _ _ _ _ _ _).enter _ _

/-- A reason added; HALL and FROZEN by a hold or a freeze alone. -/
theorem Reached.addReason (n : Nat) (r : HoldReason) (h : Reached x A B Q fl₀ w.fl)
    (hr : Q → r ≠ .hall ∧ r ≠ .frozen := by intro _; decide) :
    Reached x A B Q fl₀ (w.addReason x n r).fl := by
  unfold Work.addReason
  split
  · exact h
  · have h' := h.onStation (n := n) (f := fun st => ({ st with hold := st.hold.set r true } : Station).onReason x.hall
        (x.parkCode n)) (fun st hs => by simpa using hs) fun st => by
      refine ⟨Station.onReason_park x.hall _ { st with hold := st.hold.set r true }, fun hQ => ?_, fun hb =>
        Station.boxed.onReason (s := { st with hold := st.hold.set r true }) (hb.less (List.Sublist.refl _)) _ _⟩
      rw [Station.onReason_hold]
      obtain ⟨h₁, h₂⟩ := hr hQ
      cases r <;> first | exact ⟨fun h => h, fun h => h⟩ | contradiction
    exact ite (fun _ => h) fun _ => noteStation _ _ _ (ite (fun _ => withdrawFrozen _ h') fun _ => h')

theorem Reached.queueHead {n : Nat} {o : Order} {entry : Nat → Option InProgress} {v : Work}
    (hv : w.queueHead x n o entry = some v) (h : Reached x A B Q fl₀ w.fl) : Reached x A B Q fl₀ v.fl := by
  obtain ⟨r, hr, rfl⟩ := Option.map_eq_some_iff.1 hv
  refine (h.handOrder hr).onStation (fun st hs => ?_) fun st => ?_
  · split <;> simpa using hs
  · have hp := Station.rearm_park x.hall (x.parkCode n) o { st with outbox := st.outbox.tail }
    have hh := Station.rearm_hold x.hall (x.parkCode n) o { st with outbox := st.outbox.tail }
    dsimp only at hp hh ⊢
    split
    · exact Station.keeps_of hp hh fun hb => hb.less (by simpa using List.tail_sublist st.outbox)
    · exact Station.keeps_of hp hh fun hb => hb.less (by simpa using List.tail_sublist st.outbox)

theorem Reached.composed {t : Nat} {src : MarkSource} {d : Draw} {r : Composed × Work} (hr : w.compose x t src d = r)
    (h : Reached x A B Q fl₀ w.fl) : Reached x A B Q fl₀ r.2.fl := by subst hr; exact h.compose _ _ _

theorem Reached.drainStation (n : Nat) : ∀ (fuel : Nat) {w : Work}, Reached x A B Q fl₀ w.fl →
    Reached x A B Q fl₀ (drainStation x n fuel w).fl
  | 0, _, h => h
  | fuel + 1, w, h => by
    unfold Machine.drainStation
    split
    · exact h
    · split
      · exact h
      · refine ite (fun _ => h) fun _ => ?_
        split
        · split
          · exact h
          · rename_i hs
            split
            · rename_i hc
              exact Reached.addReason _ _ (Reached.onStation (h.composed hc))
            · rename_i t serials w' hc
              have h' : Reached x A B Q fl₀ w'.fl := h.composed hc
              split
              · rename_i hq; exact Reached.drainStation n fuel (h'.queueHead hq)
              · exact h'
        · refine ite (fun _ => h.addReason _ _) fun _ => ?_
          split
          · rename_i hq; exact Reached.drainStation n fuel (h.queueHead hq)
          · exact h
        · split
          · rename_i hq; exact Reached.drainStation n fuel (h.queueHead hq)
          · exact h

theorem Reached.drain (n : Nat) (h : Reached x A B Q fl₀ w.fl) : Reached x A B Q fl₀ (w.drain x n).fl := h.drainStation n 5

theorem Reached.parkExpired (n : Nat) (h : Reached x A B Q fl₀ w.fl) : Reached x A B Q fl₀ (w.parkExpired x n).fl := by
  unfold Work.parkExpired
  split
  · exact h
  · refine ite (fun _ => ?_) fun _ => h
    have h' := h.onStation (n := n) (f := fun st => { st with park := st.park.stop })
      (hk := fun st => Station.keeps_of (st.park.stop_keeps _) rfl id)
    exact ite (fun _ => h') fun _ =>
      (h'.onStation (n := n) (f := fun st => ({ st with parked := true } : Station).produce .park) (hk := fun st =>
        Station.keeps_of (fun _ h => h) rfl fun hb => Station.boxed.produce (s := { st with parked := true }) hb .park)).drain
        _

theorem Reached.noteWear (n old new : Nat) (h : Reached x A B Q fl₀ w.fl) : Reached x A B Q fl₀ (w.noteWear x n old new).fl := by
  simpa using h

theorem Reached.chargeWear (n t p a : Nat) (h : Reached x A B Q fl₀ w.fl) :
    Reached x A B Q fl₀ (w.chargeWear x n t p a).2.fl := by
  unfold Work.chargeWear
  split
  · exact h
  · exact h.onStation.noteWear _ _ _

theorem Reached.wearThickness (n : Nat) (h : Reached x A B Q fl₀ w.fl) : Reached x A B Q fl₀ (w.wearThickness n).2.fl := by
  unfold Work.wearThickness
  split
  · exact h
  · split
    · exact h
    · split
      · exact h
      · exact .freeTaken _ h

/-! ## Endings, ordering and the start of a job -/

theorem Reached.endUncut (j : Job) (o : JobOutcome) (h : Reached x A B Q fl₀ w.fl) :
    Reached x A B Q fl₀ (w.endUncut x j o).fl :=
  (((h.freePlate _).onStation.enter _ _).closeJob _ _ _).noteStation _ _ _

theorem Reached.beginCloseOut (j : Job) (o : JobOutcome) (h : Reached x A B Q fl₀ w.fl) :
    Reached x A B Q fl₀ (w.beginCloseOut x j o).fl := (h.onJob.noteJob _ _ _ _).changeState _ _

theorem Reached.endJob (id : Nat) (o : JobOutcome) (h : Reached x A B Q fl₀ w.fl) : Reached x A B Q fl₀ (w.endJob x id o).fl := by
  unfold Work.endJob
  split
  · exact h
  · have h' := h.onJob (n := id) (f := fun k => { k with entries := k.entries.map Entry.closed })
    exact ite (fun _ => beginCloseOut _ _ h') fun _ => endUncut _ _ h'

theorem Reached.orderIt (n : Nat) (o : Order) (h : Reached x A B Q fl₀ w.fl) : Reached x A B Q fl₀ (w.orderIt x n o).fl :=
  ite (fun _ => (h.onStation (fun st hs => by simpa using hs) fun st => Station.keeps_of (fun _ => by simp) (by simp) fun hb => hb.orderEntry o).drain _)
    fun _ => h.changeState _ _

theorem Reached.orderBurn (n : Nat) (j : Job) (h : Reached x A B Q fl₀ w.fl) : Reached x A B Q fl₀ (w.orderBurn x n j).fl := by
  unfold Work.orderBurn
  split
  · exact h.endJob _ _
  · split
    · exact h
    · exact h.orderIt _ _

theorem Reached.orderNext (n : Nat) (h : Reached x A B Q fl₀ w.fl) : Reached x A B Q fl₀ (w.orderNext x n).fl := by
  unfold Work.orderNext
  split
  · exact h
  · split
    · exact h
    · split
      · split
        · exact h.orderIt _ _
        · exact (h.onStation.changeState _ _).orderBurn _ _
      · exact h.orderBurn _ _
      · exact h

/-- The start of a job at its station: its record, and LOAD_PROGRAM produced (R48). -/
theorem Reached.loadJob (n id nest : Nat) (p : Phase) (h : Reached x A B Q fl₀ w.fl) :
    Reached x A B Q fl₀ (w.onStation n fun st =>
      ({ st with job := some id, phase := some p } : Station).produce (.loadProgram nest)).fl :=
  h.onStation (hk := fun st => Station.keeps_of (fun _ h => h) rfl fun hb =>
    Station.boxed.produce (s := { st with job := some id, phase := some p }) hb (.loadProgram nest))

theorem Reached.handJob (id : Nat) (h : Reached x A B Q fl₀ w.fl) : Reached x A B Q fl₀ (w.handJob x id).fl := by
  unfold Work.handJob
  split
  · exact h
  · exact ite (fun _ => (((h.onJob.noteJob _ _ _ _).loadJob _ _ _ _).changeState _ _).orderNext _) fun _ => h

theorem Reached.handReady (n : Nat) (h : Reached x A B Q fl₀ w.fl) : Reached x A B Q fl₀ (w.handReady x n).fl := by
  unfold Work.handReady
  split
  · exact h.handJob _
  · exact h

theorem Reached.setEmptied (n : Nat) (h : Reached x A B Q fl₀ w.fl) : Reached x A B Q fl₀ (w.setEmptied x n).fl := by
  unfold Work.setEmptied
  split
  · exact h
  · refine handReady _ (ite (fun _ => (h.changeState _ _).orderNext _) fun _ => ?_)
    exact ite (fun _ => h.changeState _ _) fun _ => h

/-- A reason taken out brings none in. -/
theorem HoldSet.set_false (h : HoldSet) (r : HoldReason) :
    ((h.set r false).hall = true → h.hall = true) ∧ ((h.set r false).frozen = true → h.frozen = true) := by
  cases r <;> simp [HoldSet.set]

theorem Reached.removeReason (n : Nat) (r : HoldReason) (h : Reached x A B Q fl₀ w.fl) :
    Reached x A B Q fl₀ (w.removeReason x n r).fl := by
  unfold Work.removeReason
  split
  · exact h
  · have h' := (h.onStation (n := n) (f := fun st => { st with hold := st.hold.set r false })
      (hk := fun st => ⟨fun _ h => h, fun _ => HoldSet.set_false st.hold r, id⟩)).noteStation n .reasonRemoved (some r)
    exact ite (fun _ => ite (fun _ => h'.setEmptied _) fun _ => h') fun _ => h

/-! ## Close-out -/

theorem Reached.onCloseOut (id : Nat) (f : CloseOut → CloseOut) (h : Reached x A B Q fl₀ w.fl) :
    Reached x A B Q fl₀ (w.onCloseOut id f).fl := h.onJob
theorem Reached.setCond (n : Nat) (c : CloseCond) (h : Reached x A B Q fl₀ w.fl) : Reached x A B Q fl₀ (w.setCond n c).fl :=
  h.onStation

/-- A move created by the part, its tag found or not. -/
theorem Reached.created {origin : Origin} {kind : MoveKind} {load : Load} {pickup : Option Place} {drop : Place}
    {expedite : Bool} {waits : Option Nat} {r : Option Nat × Work}
    (hr : w.createMove x origin kind load pickup drop expedite waits = r) (hA : A) (h : Reached x A B Q fl₀ w.fl) :
    Reached x A B Q fl₀ r.2.fl := by
  subst hr; exact h.createMove _ _ _ _ _ _ _ hA

theorem Reached.storeRequest (id : Nat) (h : Reached x A B Q fl₀ w.fl) : Reached x A B Q fl₀ (w.storeRequest x id).fl := by
  unfold Work.storeRequest
  split
  · exact h
  · rename_i hj
    split
    · exact h
    · split
      · exact (h.setCond _ _).noteJob _ _ _ _
      · split
        · rename_i hc; exact h.created hc (h.of_job hj)
        · rename_i hc; exact ((h.created hc (h.of_job hj)).onCloseOut _ _).setCond _ _

theorem Reached.skeletonRequest (id : Nat) (h : Reached x A B Q fl₀ w.fl) : Reached x A B Q fl₀ (w.skeletonRequest x id).fl := by
  unfold Work.skeletonRequest
  split
  · exact h
  · rename_i hj
    refine ite (fun _ => ?_) fun _ => (h.setCond _ _).noteJob _ _ _ _
    split
    · rename_i hc; exact h.created hc (h.of_job hj)
    · rename_i hc; exact (h.created hc (h.of_job hj)).onCloseOut _ _

theorem Reached.beginSkeleton (id : Nat) (h : Reached x A B Q fl₀ w.fl) : Reached x A B Q fl₀ (w.beginSkeleton x id).fl := by
  unfold Work.beginSkeleton
  split
  · exact h
  · exact (h.onCloseOut _ _).skeletonRequest _

/-- The rewritten record has the figures of the formulas (R11, R12, R93). -/
theorem Plate.rewritten_figures (old : Plate) (j : Job) (d : RemnantDecl) (id : Nat) :
    (Plate.rewritten x old j d id).figuresHold x.cfg := by
  simp [Plate.figuresHold, Plate.rewritten]

theorem Reached.beginStore (id : Nat) (h : Reached x A B Q fl₀ w.fl) : Reached x A B Q fl₀ (w.beginStore x id).fl := by
  unfold Work.beginStore
  split
  · exact h
  · rename_i hj
    split
    · exact ((((h.addPlate _ (Plate.rewritten_figures _ _ _ _) (h.of_job hj)).deletePlate _).onStation).onCloseOut _
        _).storeRequest _
    · exact h

theorem Reached.partsCleared (id : Nat) (h : Reached x A B Q fl₀ w.fl) : Reached x A B Q fl₀ (w.partsCleared x id).fl := by
  unfold Work.partsCleared
  split
  · exact h
  · refine ite (fun _ => ?_) fun _ => h
    exact ite (fun _ => h.beginStore _) fun _ => h.beginSkeleton _

theorem Reached.liftFailed (id : Nat) (h : Reached x A B Q fl₀ w.fl) : Reached x A B Q fl₀ (w.liftFailed x id).fl := by
  unfold Work.liftFailed
  split
  · exact h
  · exact ((h.onCloseOut _ _).setCond _ _).noteJob _ _ _ _

theorem Reached.closeOutEnd (id : Nat) (h : Reached x A B Q fl₀ w.fl) : Reached x A B Q fl₀ (w.closeOutEnd x id).fl := by
  unfold Work.closeOutEnd
  split
  · exact h
  · refine wantScan (noteStation _ _ _ (closeJob _ _ _ (enter _ _ (onStation ?_))))
    exact ite (fun _ => h) fun _ => h.deletePlate _

/-! ## Entry results -/

theorem Reached.afterResult (n : Nat) (limit : Bool) (h : Reached x A B Q fl₀ w.fl) :
    Reached x A B Q fl₀ (w.afterResult x n limit).fl := by
  unfold Work.afterResult
  split
  · exact h
  · rename_i st hs
    have h' : Reached x A B Q fl₀ (if (st.state == .holdPending) = true then w.enter x n .held else w).fl :=
      ite (fun _ => h.enter _ _) fun _ => h
    exact ite (fun _ => h'.addReason _ _) fun _ => ite (fun _ => h'.noteStation _ _ _) fun _ => h'.orderNext _

/-- A burn result charged, another charged nothing. -/
theorem Reached.charged {c : Prop} [Decidable c] (n p a : Nat) (h : Reached x A B Q fl₀ w.fl) :
    Reached x A B Q fl₀ (if c then let t := w.wearThickness n; t.2.chargeWear x n t.1 p a else (false, w)).2.fl := by
  split
  · exact (h.wearThickness n).chargeWear _ _ _ _
  · exact h

theorem Reached.entryResult (n : Nat) (failure : Option FailReason) (arc pierces : Nat) (h : Reached x A B Q fl₀ w.fl) :
    Reached x A B Q fl₀ (w.entryResult x n failure arc pierces).fl := by
  unfold Work.entryResult
  split
  · exact h
  · split
    · exact h
    · rename_i e _
      have h' := (h.onStation (n := n) (f := fun st => { st with entry := none })).charged (c := e.kind = .burn) n pierces arc
      dsimp only at h' ⊢
      split
      · exact h'
      · rename_i id _
        have h'' := (h'.noteEntry n .result e (some failure.isNone) failure arc pierces).onJob (n := id)
          (f := Job.record e.index (resultOutcome e.kind failure))
        refine ite (fun _ => ?_) fun _ => afterResult _ _ h''
        exact ite (fun _ => (endJob _ _ h'').addReason _ _) fun _ => endJob _ _ h''

theorem Reached.unmatched (n index : Nat) (kind : Option Phase) (failure : Option FailReason) (arc pierces : Nat)
    (h : Reached x A B Q fl₀ w.fl) : Reached x A B Q fl₀ (w.unmatched x n index kind failure arc pierces).fl := by
  unfold Work.unmatched
  have h' := h.charged (c := kind = some .burn) n pierces arc
  dsimp only at h' ⊢
  exact ite (fun _ => addReason (w := Work.note x _ _) _ _ h') fun _ => h'

end

end Sys2Proof.Machine
end

