-- ==== Sys2Proof/Laws/State.lean ====
section
/-! SUPPORT. One lemma per field per update of the working state of an event, of the hall and of a station's hold set:
later proofs rewrite with these and unfold no record update. -/
namespace Sys2Proof.Machine

-- One theorem after the other: the package compiled as one text must not start a thread for each.
set_option Elab.async false

section
variable (w : Work) (x : Ctx)

/-! ## A notice raised -/
@[simp] theorem Work.note_fl (b : NoticeBody) : (w.note x b).fl = w.fl := rfl
@[simp] theorem Work.note_out (b : NoticeBody) : (w.note x b).out = w.out ++ [⟨x.clock, b⟩] := rfl
@[simp] theorem Work.note_scan (b : NoticeBody) : (w.note x b).scan = w.scan := rfl
@[simp] theorem Work.note_serve (b : NoticeBody) : (w.note x b).serve = w.serve := rfl
@[simp] theorem Work.note_examine (b : NoticeBody) : (w.note x b).examine = w.examine := rfl
@[simp] theorem Work.note_freed (b : NoticeBody) : (w.note x b).freed = w.freed := rfl

/-! ## What is due -/
@[simp] theorem Work.wantScan_fl : w.wantScan.fl = w.fl := rfl
@[simp] theorem Work.wantScan_out : w.wantScan.out = w.out := rfl
@[simp] theorem Work.wantServe_fl : w.wantServe.fl = w.fl := rfl
@[simp] theorem Work.wantServe_out : w.wantServe.out = w.out := rfl
@[simp] theorem Work.slotFreed_fl : w.slotFreed.fl = w.fl := rfl
@[simp] theorem Work.slotFreed_out : w.slotFreed.out = w.out := rfl
@[simp] theorem Work.wantExamine_fl : w.wantExamine.fl = w.fl := rfl
@[simp] theorem Work.wantExamine_out : w.wantExamine.out = w.out := rfl
@[simp] theorem Work.begin_fl (fl : Floor) : (Work.begin fl).fl = fl := rfl
@[simp] theorem Work.begin_out (fl : Floor) : (Work.begin fl).out = [] := rfl

/-! ## A station changed -/
variable (n : Nat)
@[simp] theorem Work.onStation_stations (f : Station → Station) :
    (w.onStation n f).fl.stations = Table.amend Station.num n f w.fl.stations := rfl
@[simp] theorem Work.onStation_plates (f : Station → Station) : (w.onStation n f).fl.plates = w.fl.plates := rfl
@[simp] theorem Work.onStation_bays (f : Station → Station) : (w.onStation n f).fl.bays = w.fl.bays := rfl
@[simp] theorem Work.onStation_racks (f : Station → Station) : (w.onStation n f).fl.racks = w.fl.racks := rfl
@[simp] theorem Work.onStation_counters (f : Station → Station) : (w.onStation n f).fl.counters = w.fl.counters := rfl
@[simp] theorem Work.onStation_jobs (f : Station → Station) : (w.onStation n f).fl.jobs = w.fl.jobs := rfl
@[simp] theorem Work.onStation_cranes (f : Station → Station) : (w.onStation n f).fl.cranes = w.fl.cranes := rfl
@[simp] theorem Work.onStation_moves (f : Station → Station) : (w.onStation n f).fl.moves = w.fl.moves := rfl
@[simp] theorem Work.onStation_line (f : Station → Station) : (w.onStation n f).fl.line = w.fl.line := rfl
@[simp] theorem Work.onStation_out (f : Station → Station) : (w.onStation n f).out = w.out := rfl

/-! ## A job changed -/
@[simp] theorem Work.onJob_jobs (f : Job → Job) : (w.onJob n f).fl.jobs = Table.amend Job.id n f w.fl.jobs := rfl
@[simp] theorem Work.onJob_plates (f : Job → Job) : (w.onJob n f).fl.plates = w.fl.plates := rfl
@[simp] theorem Work.onJob_bays (f : Job → Job) : (w.onJob n f).fl.bays = w.fl.bays := rfl
@[simp] theorem Work.onJob_racks (f : Job → Job) : (w.onJob n f).fl.racks = w.fl.racks := rfl
@[simp] theorem Work.onJob_stations (f : Job → Job) : (w.onJob n f).fl.stations = w.fl.stations := rfl
@[simp] theorem Work.onJob_counters (f : Job → Job) : (w.onJob n f).fl.counters = w.fl.counters := rfl
@[simp] theorem Work.onJob_cranes (f : Job → Job) : (w.onJob n f).fl.cranes = w.fl.cranes := rfl
@[simp] theorem Work.onJob_moves (f : Job → Job) : (w.onJob n f).fl.moves = w.fl.moves := rfl
@[simp] theorem Work.onJob_line (f : Job → Job) : (w.onJob n f).fl.line = w.fl.line := rfl
@[simp] theorem Work.onJob_out (f : Job → Job) : (w.onJob n f).out = w.out := rfl

/-! ## A crane changed -/
@[simp] theorem Work.onCrane_cranes (f : Crane → Crane) :
    (w.onCrane n f).fl.cranes = Table.amend Crane.num n f w.fl.cranes := rfl
@[simp] theorem Work.onCrane_plates (f : Crane → Crane) : (w.onCrane n f).fl.plates = w.fl.plates := rfl
@[simp] theorem Work.onCrane_bays (f : Crane → Crane) : (w.onCrane n f).fl.bays = w.fl.bays := rfl
@[simp] theorem Work.onCrane_racks (f : Crane → Crane) : (w.onCrane n f).fl.racks = w.fl.racks := rfl
@[simp] theorem Work.onCrane_stations (f : Crane → Crane) : (w.onCrane n f).fl.stations = w.fl.stations := rfl
@[simp] theorem Work.onCrane_counters (f : Crane → Crane) : (w.onCrane n f).fl.counters = w.fl.counters := rfl
@[simp] theorem Work.onCrane_jobs (f : Crane → Crane) : (w.onCrane n f).fl.jobs = w.fl.jobs := rfl
@[simp] theorem Work.onCrane_moves (f : Crane → Crane) : (w.onCrane n f).fl.moves = w.fl.moves := rfl
@[simp] theorem Work.onCrane_line (f : Crane → Crane) : (w.onCrane n f).fl.line = w.fl.line := rfl
@[simp] theorem Work.onCrane_out (f : Crane → Crane) : (w.onCrane n f).out = w.out := rfl

/-! ## A move changed -/
@[simp] theorem Work.onMove_moves (f : Move → Move) :
    (w.onMove n f).fl.moves = Table.amend Move.tag n f w.fl.moves := rfl
@[simp] theorem Work.onMove_plates (f : Move → Move) : (w.onMove n f).fl.plates = w.fl.plates := rfl
@[simp] theorem Work.onMove_bays (f : Move → Move) : (w.onMove n f).fl.bays = w.fl.bays := rfl
@[simp] theorem Work.onMove_racks (f : Move → Move) : (w.onMove n f).fl.racks = w.fl.racks := rfl
@[simp] theorem Work.onMove_stations (f : Move → Move) : (w.onMove n f).fl.stations = w.fl.stations := rfl
@[simp] theorem Work.onMove_counters (f : Move → Move) : (w.onMove n f).fl.counters = w.fl.counters := rfl
@[simp] theorem Work.onMove_jobs (f : Move → Move) : (w.onMove n f).fl.jobs = w.fl.jobs := rfl
@[simp] theorem Work.onMove_cranes (f : Move → Move) : (w.onMove n f).fl.cranes = w.fl.cranes := rfl
@[simp] theorem Work.onMove_line (f : Move → Move) : (w.onMove n f).fl.line = w.fl.line := rfl
@[simp] theorem Work.onMove_out (f : Move → Move) : (w.onMove n f).out = w.out := rfl

/-! ## A node or the line changed -/
@[simp] theorem Work.onNode_nodes (f : Node → Node) :
    (w.onNode n f).fl.line.nodes = Table.amend Node.address n f w.fl.line.nodes := rfl
@[simp] theorem Work.onNode_plates (f : Node → Node) : (w.onNode n f).fl.plates = w.fl.plates := rfl
@[simp] theorem Work.onNode_stations (f : Node → Node) : (w.onNode n f).fl.stations = w.fl.stations := rfl
@[simp] theorem Work.onNode_jobs (f : Node → Node) : (w.onNode n f).fl.jobs = w.fl.jobs := rfl
@[simp] theorem Work.onNode_cranes (f : Node → Node) : (w.onNode n f).fl.cranes = w.fl.cranes := rfl
@[simp] theorem Work.onNode_moves (f : Node → Node) : (w.onNode n f).fl.moves = w.fl.moves := rfl
@[simp] theorem Work.onNode_counters (f : Node → Node) : (w.onNode n f).fl.counters = w.fl.counters := rfl
@[simp] theorem Work.onNode_out (f : Node → Node) : (w.onNode n f).out = w.out := rfl
@[simp] theorem Work.onLine_line (f : Line → Line) : (w.onLine f).fl.line = f w.fl.line := rfl
@[simp] theorem Work.onLine_plates (f : Line → Line) : (w.onLine f).fl.plates = w.fl.plates := rfl
@[simp] theorem Work.onLine_stations (f : Line → Line) : (w.onLine f).fl.stations = w.fl.stations := rfl
@[simp] theorem Work.onLine_jobs (f : Line → Line) : (w.onLine f).fl.jobs = w.fl.jobs := rfl
@[simp] theorem Work.onLine_cranes (f : Line → Line) : (w.onLine f).fl.cranes = w.fl.cranes := rfl
@[simp] theorem Work.onLine_moves (f : Line → Line) : (w.onLine f).fl.moves = w.fl.moves := rfl
@[simp] theorem Work.onLine_out (f : Line → Line) : (w.onLine f).out = w.out := rfl

/-! ## A bay, a plate's hold, a plate's location -/
@[simp] theorem Work.onBay_bays (f : Bay → Bay) : (w.onBay n f).fl.bays = Table.amend Bay.num n f w.fl.bays := rfl
@[simp] theorem Work.onBay_plates (f : Bay → Bay) : (w.onBay n f).fl.plates = w.fl.plates := rfl
@[simp] theorem Work.onBay_stations (f : Bay → Bay) : (w.onBay n f).fl.stations = w.fl.stations := rfl
@[simp] theorem Work.onBay_jobs (f : Bay → Bay) : (w.onBay n f).fl.jobs = w.fl.jobs := rfl
@[simp] theorem Work.onBay_cranes (f : Bay → Bay) : (w.onBay n f).fl.cranes = w.fl.cranes := rfl
@[simp] theorem Work.onBay_moves (f : Bay → Bay) : (w.onBay n f).fl.moves = w.fl.moves := rfl
@[simp] theorem Work.onBay_line (f : Bay → Bay) : (w.onBay n f).fl.line = w.fl.line := rfl
@[simp] theorem Work.onBay_out (f : Bay → Bay) : (w.onBay n f).out = w.out := rfl
@[simp] theorem Work.setHold_plates (h : Hold) :
    (w.setHold n h).fl.plates = Table.amend Plate.id n (fun p => { p with hold := h }) w.fl.plates := rfl
@[simp] theorem Work.setHold_stations (h : Hold) : (w.setHold n h).fl.stations = w.fl.stations := rfl
@[simp] theorem Work.setHold_jobs (h : Hold) : (w.setHold n h).fl.jobs = w.fl.jobs := rfl
@[simp] theorem Work.setHold_cranes (h : Hold) : (w.setHold n h).fl.cranes = w.fl.cranes := rfl
@[simp] theorem Work.setHold_moves (h : Hold) : (w.setHold n h).fl.moves = w.fl.moves := rfl
@[simp] theorem Work.setHold_bays (h : Hold) : (w.setHold n h).fl.bays = w.fl.bays := rfl
@[simp] theorem Work.setHold_line (h : Hold) : (w.setHold n h).fl.line = w.fl.line := rfl
@[simp] theorem Work.setHold_out (h : Hold) : (w.setHold n h).out = w.out := rfl
@[simp] theorem Work.setLocation_plates (l : Location) :
    (w.setLocation n l).fl.plates = Table.amend Plate.id n (fun p => { p with location := l }) w.fl.plates := rfl
@[simp] theorem Work.setLocation_stations (l : Location) : (w.setLocation n l).fl.stations = w.fl.stations := rfl
@[simp] theorem Work.setLocation_jobs (l : Location) : (w.setLocation n l).fl.jobs = w.fl.jobs := rfl
@[simp] theorem Work.setLocation_cranes (l : Location) : (w.setLocation n l).fl.cranes = w.fl.cranes := rfl
@[simp] theorem Work.setLocation_moves (l : Location) : (w.setLocation n l).fl.moves = w.fl.moves := rfl
@[simp] theorem Work.setLocation_out (l : Location) : (w.setLocation n l).out = w.out := rfl

/-! ## A plate record created -/
@[simp] theorem Work.addPlate_plates (p : Plate) : (w.addPlate p).fl.plates = Table.put Plate.id p w.fl.plates := rfl
@[simp] theorem Work.addPlate_nextId (p : Plate) : (w.addPlate p).fl.nextId = idAfter p.id := rfl
@[simp] theorem Work.addPlate_cranes (p : Plate) : (w.addPlate p).fl.cranes = w.fl.cranes := rfl
@[simp] theorem Work.addPlate_moves (p : Plate) : (w.addPlate p).fl.moves = w.fl.moves := rfl
@[simp] theorem Work.addPlate_jobs (p : Plate) : (w.addPlate p).fl.jobs = w.fl.jobs := rfl
@[simp] theorem Work.addPlate_out (p : Plate) : (w.addPlate p).out = w.out := rfl
end

/-! ## Hold sets -/

/-- Setting a reason decides that reason and no other. -/
@[simp] theorem HoldSet.has_set (h : HoldSet) (r q : HoldReason) (v : Bool) :
    (h.set r v).has q = if q = r then v else h.has q := by
  cases r <;> cases q <;> rfl

/-! ## The hall -/
@[simp] theorem Hall.inState_state (h : Hall) (s : HallState) : (h.inState s).sup.state = s := rfl
@[simp] theorem Hall.inState_frozenFrom (h : Hall) (s : HallState) : (h.inState s).sup.frozenFrom = none := rfl
@[simp] theorem Hall.inState_cause (h : Hall) (s : HallState) : (h.inState s).sup.cause = none := rfl
@[simp] theorem Hall.inState_fl (h : Hall) (s : HallState) : (h.inState s).fl = h.fl := rfl
@[simp] theorem Hall.inState_cfg (h : Hall) (s : HallState) : (h.inState s).cfg = h.cfg := rfl
@[simp] theorem Hall.inState_clock (h : Hall) (s : HallState) : (h.inState s).sup.clock = h.sup.clock := rfl
@[simp] theorem Hall.inState_stopInput (h : Hall) (s : HallState) : (h.inState s).sup.stopInput = h.sup.stopInput := rfl
@[simp] theorem Hall.inState_capture (h : Hall) (s : HallState) : (h.inState s).sup.capture = h.sup.capture := rfl

/-- The close of an event touches neither the floor nor the configuration nor the templates. -/
@[simp] theorem Hall.close_fl (h : Hall) (out : List Notice) : (h.close out).1.fl = h.fl := by
  unfold Hall.close; cases h.sup.state == .holding && h.fl.atRest <;> rfl
@[simp] theorem Hall.close_cfg (h : Hall) (out : List Notice) : (h.close out).1.cfg = h.cfg := by
  unfold Hall.close; cases h.sup.state == .holding && h.fl.atRest <;> rfl
@[simp] theorem Hall.close_templates (h : Hall) (out : List Notice) : (h.close out).1.templates = h.templates := by
  unfold Hall.close; cases h.sup.state == .holding && h.fl.atRest <;> rfl

/-- At the close of an event ALERT is what R163 makes it. -/
theorem Hall.close_alert (h : Hall) (out : List Notice) :
    (h.close out).1.sup.alert = alertOf (h.close out).1.sup.state (h.close out).1.fl.line.nodes := by
  unfold Hall.close; cases h.sup.state == .holding && h.fl.atRest <;> rfl

/-- The close of an event leaves the hall state, but for the passage from HOLDING to HELD (R157). -/
theorem Hall.close_state (h : Hall) (out : List Notice) :
    (h.close out).1.sup.state = if h.sup.state == .holding && h.fl.atRest then .held else h.sup.state := by
  unfold Hall.close; cases h.sup.state == .holding && h.fl.atRest <;> rfl

/-- An event on the floor changes neither the configuration nor the templates. -/
@[simp] theorem Hall.onFloorThen_cfg (h : Hall) (before : List Notice) (f line : Ctx → Work → Work) :
    (h.onFloorThen before f line).1.cfg = h.cfg := by simp [Hall.onFloorThen]
@[simp] theorem Hall.onFloorThen_templates (h : Hall) (before : List Notice) (f line : Ctx → Work → Work) :
    (h.onFloorThen before f line).1.templates = h.templates := by simp [Hall.onFloorThen]
@[simp] theorem Hall.onFloor_cfg (h : Hall) (before : List Notice) (f : Ctx → Work → Work) :
    (h.onFloor before f).1.cfg = h.cfg := by simp [Hall.onFloor]
@[simp] theorem Hall.onFloor_templates (h : Hall) (before : List Notice) (f : Ctx → Work → Work) :
    (h.onFloor before f).1.templates = h.templates := by simp [Hall.onFloor]

/-- The floor after an event: its own effect, what is due at the same event, and what the line does then. -/
theorem Hall.onFloorThen_fl (h : Hall) (before : List Notice) (f line : Ctx → Work → Work) :
    (h.onFloorThen before f line).1.fl = (line h.ctx (settle h.ctx 64 (f h.ctx (Work.begin h.fl)))).fl := by
  simp [Hall.onFloorThen]

end Sys2Proof.Machine
end

