-- ==== Sys2Proof/Laws/Cranes.lean ====
section
/-! SUPPORT. What the Crane Dispatcher can do to the floor: each operation is a sequence of the elementary changes of
Sys2Proof/Laws/Reached.lean. A grant is made only where it keeps the separation, and otherwise only narrowed. -/
namespace Sys2Proof.Machine

-- One theorem after the other: the package compiled as one text must not start a thread for each.
set_option Elab.async false

section
variable {x : Ctx} {A B Q : Prop} {fl₀ : Floor} {w : Work}

/-! ## What the grants rest on -/

/-- What the grants of a floor rest on: each crane's number, position and grant. -/
def Floor.tracks (fl : Floor) : List (Nat × Option Nat × Option Grant) :=
  fl.cranes.map fun k => (k.num, k.position, k.grant)

theorem Floor.tracks_crane {fl fl' : Floor} (h : fl.tracks = fl'.tracks) (c : Nat) :
    (fl.crane? c).map (fun k => (k.position, k.grant)) = (fl'.crane? c).map fun k => (k.position, k.grant) := by
  have key : ∀ l : List Crane, (Table.get Crane.num c l).map (fun k => (k.position, k.grant))
      = ((l.map fun k => (k.num, k.position, k.grant)).find? fun t => t.1 == c).map fun t => t.2 := by
    intro l
    rw [List.find?_map, Option.map_map]
    rfl
  have := (key fl.cranes).symm
  rw [show (fl.cranes.map fun k => (k.num, k.position, k.grant)) = fl'.cranes.map fun k => (k.num, k.position, k.grant)
    from h] at this
  exact this.symm.trans (key _).symm

/-- The same tracks: the same grants. -/
theorem Floor.tracks_grant {fl fl' : Floor} (h : fl.tracks = fl'.tracks) (c : Nat) :
    (fl.crane? c).bind Crane.grant = (fl'.crane? c).bind Crane.grant := by
  have := Floor.tracks_crane h c
  cases h1 : fl.crane? c <;> cases h2 : fl'.crane? c <;> simp_all

/-- The same tracks: the same positions. -/
theorem Floor.tracks_position {fl fl' : Floor} (h : fl.tracks = fl'.tracks) (c : Nat) :
    fl.positionOf c = fl'.positionOf c := by
  have := Floor.tracks_crane h c
  unfold Floor.positionOf
  cases h1 : fl.crane? c <;> cases h2 : fl'.crane? c <;> simp_all

theorem Floor.tracks_otherGrant {fl fl' : Floor} (h : fl.tracks = fl'.tracks) (c : Nat) :
    fl.otherGrant c = fl'.otherGrant c := Floor.tracks_grant h _

/-- A change of a crane that leaves its number, position and grant leaves the tracks. -/
theorem Work.onCrane_tracks {c : Nat} {f : Crane → Crane}
    (hf : ∀ k, (f k).num = k.num ∧ (f k).position = k.position ∧ (f k).grant = k.grant) :
    (w.onCrane c f).fl.tracks = w.fl.tracks := by
  unfold Floor.tracks Work.onCrane Table.amend
  dsimp only
  rw [List.map_map]
  apply List.map_congr_left
  intro k _
  dsimp only [Function.comp]
  split
  · simp [hf k]
  · rfl

@[simp] theorem Work.onRack_cranes (r : Nat) (f : Rack → Rack) : (w.onRack r f).fl.cranes = w.fl.cranes := by
  unfold Work.onRack; split <;> rfl
@[simp] theorem Work.onSlot_cranes (r n : Nat) (f : Slot → Slot) : (w.onSlot r n f).fl.cranes = w.fl.cranes :=
  Work.onRack_cranes _ _
@[simp] theorem Work.changeState_cranes (n : Nat) (s : StationState) : (w.changeState x n s).fl.cranes = w.fl.cranes := by
  unfold Work.changeState; rw [Work.noteStation_fl]; rfl
@[simp] theorem Work.claimPlaces_cranes (m : Move) : (w.claimPlaces x m).fl.cranes = w.fl.cranes := by
  unfold Work.claimPlaces
  split <;> split <;> simp

/-- The binding of a move leaves positions and grants. -/
theorem Work.bind_tracks (t c : Nat) : (w.bind x t c).fl.tracks = w.fl.tracks := by
  have h : ((w.onMove t fun m => { m with state := .bound, crane := some c }).onCrane c
      fun k => { k with bound := some t, activity := .bound }).fl.tracks = w.fl.tracks :=
    Work.onCrane_tracks (w := w.onMove t _) fun k => ⟨rfl, rfl, rfl⟩
  unfold Work.bind
  dsimp only
  split
  · rw [← h]
    unfold Floor.tracks
    rw [Work.claimPlaces_cranes, Work.noteMoveTag_fl]
  · rw [Work.noteMoveTag_fl]; exact h

theorem Work.createMove_cranes (origin : Origin) (kind : MoveKind) (load : Load) (pickup : Option Place) (drop : Place)
    (expedite : Bool) (waits : Option Nat) :
    (w.createMove x origin kind load pickup drop expedite waits).2.fl.cranes = w.fl.cranes := by
  unfold Work.createMove; split <;> rfl

/-! ## Limits and grants -/

theorem Reached.produceLimit (c : Nat) (h : Reached x A B Q fl₀ w.fl) : Reached x A B Q fl₀ (w.produceLimit x c).fl := by
  unfold Work.produceLimit
  split
  · exact h.craneOrder _ _
  · exact h

/-- A grant that keeps the separation. -/
theorem Reached.setGrant {c : Nat} {g : Grant} (hA : A)
    (hg : B → keepsSeparation x.cfg.separation c g (w.fl.otherGrant c) = true) (h : Reached x A B Q fl₀ w.fl) :
    Reached x A B Q fl₀ (w.setGrant x c g).fl :=
  produceLimit (w := w.onCrane c _) c (.grant c g hg hA h)

/-- A grant narrowed. -/
theorem Reached.narrow {c : Nat} {g old : Grant} (ho : (w.fl.crane? c).bind Crane.grant = some old)
    (hg : old.lo ≤ g.lo ∧ g.hi ≤ old.hi) (h : Reached x A B Q fl₀ w.fl) : Reached x A B Q fl₀ (w.setGrant x c g).fl :=
  produceLimit (w := w.onCrane c _) c (.shrink c g old ho hg h)

/-! ## Claims, binding and unbinding -/

theorem Reached.claimPlaces (m : Move) (h : Reached x A B Q fl₀ w.fl) : Reached x A B Q fl₀ (w.claimPlaces x m).fl := by
  have h' : Reached x A B Q fl₀ (match w.fl.pickupOf m with
      | some (.bay b) => w.onBay b fun k => { k with claim := some m.tag }
      | some (.slot r n) => w.onSlot r n fun s => { s with transfer := .outbound m.tag }
      | _ => w).fl := by
    split
    · exact h.onBay
    · exact h.onSlot _ _ _
    · exact h
  unfold Work.claimPlaces
  dsimp only at h' ⊢
  split
  · exact h'.onBay
  · exact h'.onSlot _ _ _
  · exact (h'.onStation).changeState _ _
  · exact h'

theorem Reached.returnSlot (r n : Nat) (t : Transfer) (h : Reached x A B Q fl₀ w.fl) :
    Reached x A B Q fl₀ (w.returnSlot r n t).fl := .racks _ (amended fun _ h => h) h

theorem Reached.releasePickup (m : Move) (h : Reached x A B Q fl₀ w.fl) : Reached x A B Q fl₀ (w.releasePickup m).fl := by
  unfold Work.releasePickup
  split
  · exact h.onBay fun s hs => by split <;> exact hs
  · exact h.returnSlot _ _ _
  · exact h

theorem Reached.releaseDrop (m : Move) (h : Reached x A B Q fl₀ w.fl) : Reached x A B Q fl₀ (w.releaseDrop x m).fl := by
  unfold Work.releaseDrop
  split
  · exact h.onBay
  · exact h.returnSlot _ _ _
  · exact ite (fun _ => h.onStation.changeState _ _) fun _ => h
  · exact h

theorem Reached.idleCrane (c : Nat) (h : Reached x A B Q fl₀ w.fl) : Reached x A B Q fl₀ (w.idleCrane c).fl := h.onCrane

theorem Reached.failMove (m : Move) (r : FailReason) (h : Reached x A B Q fl₀ w.fl) :
    Reached x A B Q fl₀ (w.failMove x m r).fl := (h.noteMove _ _ _).removeMove _

theorem Reached.unbind (t : Nat) (h : Reached x A B Q fl₀ w.fl) : Reached x A B Q fl₀ (w.unbind x t).fl := by
  unfold Work.unbind
  split
  · exact h
  · rename_i m _
    split
    · exact h
    · rename_i c _
      have h' := ((((h.setState (n := t) (f := fun m => { m with state := .waiting, crane := none, causedYield := none })
        (hc := fun _ _ _ => trivial)).noteMove .unbound
          { m with state := .waiting, crane := none, causedYield := none } none).releasePickup m).releaseDrop m).idleCrane c
      exact ite (fun _ => h'.failMove _ _) fun _ => h'

theorem Reached.bind (t c : Nat) (hc : B → c = 1 ∨ c = 2) (h : Reached x A B Q fl₀ w.fl) :
    Reached x A B Q fl₀ (w.bind x t c).fl := by
  have h' := ((h.setState (n := t) (f := fun m => { m with state := .bound, crane := some c })
    (hc := fun _ hB _ => hc hB)).onCrane (n := c) (f := fun k => { k with bound := some t, activity := .bound })).noteMoveTag .bound t
  unfold Work.bind
  dsimp only
  split
  · exact h'.claimPlaces _
  · exact h'

theorem Reached.grantMove {c : Nat} {m : Move} {g : Grant} (hA : A)
    (hg : B → keepsSeparation x.cfg.separation c g (w.fl.otherGrant c) = true) (h : Reached x A B Q fl₀ w.fl) :
    Reached x A B Q fl₀ (w.grantMove x c m g).fl := by
  have ht : (w.onCrane c fun k => { k with activity := .moving }).fl.tracks = w.fl.tracks :=
    Work.onCrane_tracks fun k => ⟨rfl, rfl, rfl⟩
  have h' : Reached x A B Q fl₀ ((w.onCrane c fun k => { k with activity := .moving }).setGrant x c g).fl :=
    (h.onCrane).setGrant hA fun hB => by rw [Floor.tracks_otherGrant ht]; exact hg hB
  exact ((h'.craneOrder _ _).setState (hw := fun m => m.wait.stop_keeps _)).noteMoveTag _ _

theorem otherCrane_known (c : Nat) : otherCrane c = 1 ∨ otherCrane c = 2 := by
  unfold otherCrane; split
  · exact .inr rfl
  · exact .inl rfl

theorem otherCrane_other {c : Nat} (h : c = 1 ∨ c = 2) : otherCrane (otherCrane c) = c := by
  rcases h with rfl | rfl <;> rfl

/-- A YIELD keeps the separation: its own extent was tested against the blocked crane's grant (R118, R117). -/
theorem Reached.makeYield {c blocked target : Nat} {needed : Grant} (hA : A) (hc : B → c = 1 ∨ c = 2)
    (hy : x.yieldFor w.fl c needed = some target) (h : Reached x A B Q fl₀ w.fl) :
    Reached x A B Q fl₀ (w.makeYield x c blocked target).fl := by
  unfold Work.makeYield
  split
  · rename_i hm; exact h.created hm hA
  · rename_i t w₁ hm
    have h₁ : Reached x A B Q fl₀ w₁.fl := h.created hm hA
    have ht₁ : w₁.fl.cranes = w.fl.cranes := by
      have := Work.createMove_cranes (x := x) (w := w) .yield .yield .none none (.position target) false (some blocked)
      rw [hm] at this; exact this
    have h₂ := (h₁.onMove (n := blocked) (f := fun m => { m with causedYield := some t })).bind t (otherCrane c)
      fun _ => otherCrane_known c
    have ht : ((w₁.onMove blocked fun m => { m with causedYield := some t }).bind x t (otherCrane c)).fl.tracks
        = w.fl.tracks := by
      rw [Work.bind_tracks]
      show w₁.fl.cranes.map _ = _
      rw [ht₁]; rfl
    dsimp only
    split
    · refine h₂.grantMove hA fun hB => ?_
      have hk := Option.filter_eq_some_iff.1 hy
      rw [Floor.tracks_otherGrant ht]
      unfold Floor.otherGrant
      rw [otherCrane_other (hc hB)]
      unfold Ctx.yieldExtent
      rw [Floor.tracks_position ht]
      have := hk.2
      simp only [Bool.and_eq_true] at this
      exact this.2
    · exact h₂

theorem Reached.attemptGrant (t : Nat) (h : Reached x A B Q fl₀ w.fl) : Reached x A B Q fl₀ (w.attemptGrant x t).fl := by
  unfold Work.attemptGrant
  split
  · exact h
  · rename_i m hm
    split
    · exact h
    · rename_i c hc
      refine ite (fun _ => h) fun _ => ite (fun hs => h.grantMove (h.of_move hm) fun _ => hs) fun _ => ?_
      split
      · rename_i hy
        refine h.makeYield (h.of_move hm) (fun hB => ?_) hy
        have := (h.cranes_known hB).1 m (Table.mem_of_get _ hm)
        rw [hc] at this
        exact this
      · exact h.unbind _

/-! ## The end of a move -/

theorem Reached.ownExtent (c : Nat) (h : Reached x A B Q fl₀ w.fl) : Reached x A B Q fl₀ (w.ownExtent x c).fl := by
  unfold Work.ownExtent
  split
  · exact h
  · rename_i k hk
    split
    · rename_i g hg _
      refine h.narrow (old := g) (by rw [hk]; exact hg) ⟨?_, ?_⟩
      · exact Nat.le_max_right _ _
      · exact Nat.min_le_right _ _
    · exact h

theorem Reached.moveEnd (m : Move) (h : Reached x A B Q fl₀ w.fl) : Reached x A B Q fl₀ (w.moveEnd x m).fl := by
  unfold Work.moveEnd
  refine removeMove _ ?_
  split
  · exact (h.idleCrane _).ownExtent _
  · exact h

theorem Reached.retryWaiting (m : Move) (h : Reached x A B Q fl₀ w.fl) : Reached x A B Q fl₀ (w.retryWaiting x m).fl := by
  unfold Work.retryWaiting
  split
  · exact h
  · exact ite (fun _ => (h.onMove).attemptGrant _) fun _ => h

theorem Reached.yieldDone (m : Move) (h : Reached x A B Q fl₀ w.fl) : Reached x A B Q fl₀ (w.yieldDone x m).fl :=
  ((h.noteMove _ _ _).moveEnd _).retryWaiting _

/-! ## The lift and the set-down -/

theorem Reached.rejectHeld (v : Hold) (h : Reached x A B Q fl₀ w.fl) : Reached x A B Q fl₀ (w.rejectHeld x v).fl := by
  unfold Work.rejectHeld
  split
  · exact h.closeJob _ _ _
  · exact (h.dropStaging _).closeJob _ _ _
  · exact h

theorem Reached.liftPassed (c : Nat) (m : Move) (h : Reached x A B Q fl₀ w.fl) :
    Reached x A B Q fl₀ (w.liftPassed x c m).fl := by
  have h₁ := (h.craneOrder c (.continue m.tag)).setState (n := m.tag) (f := fun k => { k with state := .phase .toDrop })
  unfold Work.liftPassed
  dsimp only at h₁ ⊢
  split
  · split
    · exact h₁
    · rename_i id _ _ p _
      have h₂ : Reached x A B Q fl₀ (match p.location with
          | .bay b _ => (((w.craneOrder x c (.continue m.tag)).onMove m.tag fun k => { k with state := .phase .toDrop }).onBay b
              fun k => if k.claim = some m.tag then { k with claim := none } else k)
          | .rack r n => (((w.craneOrder x c (.continue m.tag)).onMove m.tag
              fun k => { k with state := .phase .toDrop }).onSlot r n fun s => { s.restart with transfer := .verifyOut })
          | _ => ((w.craneOrder x c (.continue m.tag)).onMove m.tag fun k => { k with state := .phase .toDrop })).fl := by
        split
        · exact h₁.onBay fun s hs => by split <;> exact hs
        · exact h₁.onSlot _ _ _
        · exact h₁
      have h₃ := (h₂.leavePlace id p.location).setLocation id (.crane c)
      dsimp only at h₃ ⊢
      split
      · exact h₃.beginSkeleton _
      · exact h₃
  · exact h₁

theorem Reached.liftRejected (c : Nat) (m : Move) (r : FailReason) (h : Reached x A B Q fl₀ w.fl) :
    Reached x A B Q fl₀ (w.liftRejected x c m r).fl := by
  have h₁ := (h.craneOrder c (.lowerBack m.tag)).noteMove .failed m (some (.failed r))
  unfold Work.liftRejected
  refine moveEnd _ (releaseDrop _ (releasePickup _ ?_))
  have h₂ : Reached x A B Q fl₀ (match m.load with
      | .plate id => ((w.craneOrder x c (.lowerBack m.tag)).noteMove x .failed m (some (.failed r))).setHold id .quarantined
      | _ => (w.craneOrder x c (.lowerBack m.tag)).noteMove x .failed m (some (.failed r))).fl := by
    split
    · exact h₁.setHold _ _
    · exact h₁
  dsimp only at h₂ ⊢
  split
  · split
    · exact h₂.liftFailed _
    · exact h₂.liftFailed _
    · exact h₂.closeJob _ _ _
  · exact h₂.rejectHeld _
  · exact h₂

theorem Reached.lifted (c : Nat) (m : Move) (reading : Nat) (h : Reached x A B Q fl₀ w.fl) :
    Reached x A B Q fl₀ (w.lifted x c m reading).fl := by
  unfold Work.lifted
  split
  · dsimp only
    split
    · exact liftPassed (w := Work.note x _ _) _ _ h
    · exact liftRejected (w := Work.note x _ _) _ _ _ h
  · exact h

theorem Reached.plateArrives (m : Move) (id : Nat) (h : Reached x A B Q fl₀ w.fl) :
    Reached x A B Q fl₀ (w.plateArrives x m id).fl := by
  unfold Work.plateArrives
  split
  · exact (h.onBay.pushBay _ _).setLocation _ _
  · exact (h.onSlot _ _ _).setLocation _ _
  · exact (h.onStation.enter _ _).setLocation _ _
  · exact h.deletePlate _
  · exact h

theorem Reached.stagedArrives (j : Job) (h : Reached x A B Q fl₀ w.fl) : Reached x A B Q fl₀ (w.stagedArrives x j).fl := by
  unfold Work.stagedArrives
  refine ite (fun _ => ?_) fun _ => ?_
  · exact ((h.onJob.freePlate _).closeJob _ _ _).noteStation _ _ _
  · exact ((h.onJob.onJob.noteJob _ _ _ _).noteStation _ _ _).handJob _

theorem Reached.setDown (m : Move) (h : Reached x A B Q fl₀ w.fl) : Reached x A B Q fl₀ (w.setDown x m).fl := by
  have h₁ := h.noteMove .done m (some .done)
  unfold Work.setDown
  refine moveEnd _ ?_
  split
  · have h₂ := h₁.plateArrives m (by assumption)
    dsimp only
    split
    · split
      · exact h₂.stagedArrives _
      · exact h₂.noteStation _ _ _
    · exact h₂
  · split
    · exact h₁.closeOutEnd _
    · exact h₁
  · exact h₁

theorem Reached.takeEvent (c : Nat) (m : Move) (p : MovePhase) (reading : Nat) (h : Reached x A B Q fl₀ w.fl) :
    Reached x A B Q fl₀ (w.takeEvent x c m p reading).fl := by
  unfold Work.takeEvent
  split
  · exact h.setState
  · exact h.lifted _ _ _
  · exact ite (fun _ => h.yieldDone _) fun _ => h.setState
  · exact h.setDown _

theorem Reached.takeEvents (c t : Nat) (s : Shown) : ∀ (fuel : Nat) {w : Work}, Reached x A B Q fl₀ w.fl →
    Reached x A B Q fl₀ (takeEvents x c t s fuel w).fl
  | 0, _, h => h
  | fuel + 1, w, h => by
    unfold Machine.takeEvents
    split
    · exact h
    · split
      · refine ite (fun _ => ?_) fun _ => h
        exact ite (fun _ => h.takeEvent _ _ _ _) fun _ => Reached.takeEvents c t s fuel (h.takeEvent _ _ _ _)
      · exact h

/-! ## Suspension, stop causes and health -/

/-- Setting a cause decides that cause and no other. -/
@[simp] theorem SuspendSet.set_frozen (s : SuspendSet) (c : SuspendCause) (v : Bool) :
    (s.set c v).frozen = if c = .frozen then v else s.frozen := by cases c <;> rfl

/-- A move suspended, or a cause added; FROZEN by a freeze alone. -/
theorem Reached.suspend (t : Nat) (c : SuspendCause) (h : Reached x A B Q fl₀ w.fl)
    (hc : Q → c ≠ .frozen := by intro _; decide) : Reached x A B Q fl₀ (w.suspend x t c).fl := by
  unfold Work.suspend
  split
  · exact h
  · rename_i m hm
    split
    · refine noteMoveTag _ _ (onMove h (hk := fun s _ _ => ⟨fun _ h => h, ?_⟩))
      rintro hQ ⟨p, z, hz, hf⟩
      cases hz
      simp [hc hQ] at hf
    · rename_i p z hs
      refine ite (fun _ => h) fun _ => noteMoveTag _ _ (onMove h (hk := fun s _ ht => ⟨fun _ h => h, ?_⟩))
      rintro hQ ⟨p', z', hz, hf⟩
      cases hz
      rw [SuspendSet.set_frozen, if_neg (hc hQ)] at hf
      exact ⟨m, Table.mem_of_get _ hm, (Table.key_of_get _ hm).trans ht.symm, p, z, hs, hf⟩
    · exact h

theorem Reached.suspendAll (c : SuspendCause) (h : Reached x A B Q fl₀ w.fl) (hc : Q → c ≠ .frozen := by intro _; decide) :
    Reached x A B Q fl₀ (w.suspendAll x c).fl :=
  .foldl (fun _ t h => h.suspend t c hc) _ h

theorem Reached.resumeMove (t : Nat) (p : MovePhase) (h : Reached x A B Q fl₀ w.fl) :
    Reached x A B Q fl₀ (w.resumeMove x t p).fl := by
  have h' := (h.setState (n := t) (f := fun k => { k with state := .phase p })).noteMoveTag .resumed t
  unfold Work.resumeMove
  dsimp only
  split
  · exact h'
  · split
    · exact h'
    · exact ite (fun _ => h'.takeEvents _ _ _ _) fun _ => (h'.produceLimit _).craneOrder _ _

/-- Causes taken out bring FROZEN in no more than it stood. -/
theorem SuspendSet.without_frozen : ∀ (cs : List SuspendCause) (s : SuspendSet),
    (cs.foldl (fun s c => s.set c false) s).frozen = true → SuspendCause.frozen ∉ cs ∧ s.frozen = true
  | [], _, h => ⟨List.not_mem_nil, h⟩
  | c :: cs, s, h => by
    obtain ⟨h₁, h₂⟩ := SuspendSet.without_frozen cs (s.set c false) h
    rw [SuspendSet.set_frozen] at h₂
    split at h₂
    · cases h₂
    · rename_i hc
      exact ⟨fun hm => (List.mem_cons.1 hm).elim (fun h => hc h.symm) h₁, h₂⟩

theorem Reached.unsuspend (cs : List SuspendCause) (t : Nat) (h : Reached x A B Q fl₀ w.fl) :
    Reached x A B Q fl₀ (w.unsuspend x cs t).fl := by
  unfold Work.unsuspend
  split
  · exact h
  · rename_i m hm
    split
    · rename_i p z hs
      refine ite (fun _ => ?_) fun _ => h
      refine ite (fun _ => h.resumeMove _ _) fun _ => noteMoveTag _ _ (onMove h (hk := fun s _ ht => ⟨fun _ h => h, ?_⟩))
      rintro hQ ⟨p', z', hz, hf⟩
      cases hz
      exact ⟨m, Table.mem_of_get _ hm, (Table.key_of_get _ hm).trans ht.symm, p, z, hs, (SuspendSet.without_frozen _ _ hf).2⟩
    · exact h

theorem Reached.unsuspendAll (cs : List SuspendCause) (h : Reached x A B Q fl₀ w.fl) :
    Reached x A B Q fl₀ (w.unsuspendAll x cs).fl := .foldl (fun _ t h => h.unsuspend cs t) _ h

theorem Reached.clearStop (breach : Bool) (c : Nat) (h : Reached x A B Q fl₀ w.fl) :
    Reached x A B Q fl₀ (w.clearStop x breach c).fl := by
  unfold Work.clearStop
  split
  · exact h
  · have h' : Reached x A B Q fl₀ (w.onCrane c fun k =>
        if breach then { k with stopBreach := false } else { k with stopFrozen := false }).fl :=
      h.onCrane (fun s hs => by split <;> exact hs) (fun s => by split <;> rfl) fun s _ hz => by
        split at hz
        · exact hz
        · cases hz
    exact ite (fun _ => h'.craneOrder _ _) fun _ => h'

theorem Reached.clearStops (breach : Bool) (h : Reached x A B Q fl₀ w.fl) :
    Reached x A B Q fl₀ (w.clearStops x breach).fl := .foldl (fun _ c h => h.clearStop breach c) _ h

theorem Reached.craneOut (c : Nat) (cause : SuspendCause) (h : Reached x A B Q fl₀ w.fl)
    (hc : Q → cause ≠ .frozen := by intro _; decide) : Reached x A B Q fl₀ (w.craneOut x c cause).fl := by
  unfold Work.craneOut
  split
  · exact h
  · refine ite (fun _ => h.unbind _) fun _ => ?_
    have h' := h.suspend (by assumption : Move).tag cause hc
    dsimp only
    split
    · exact ite (fun _ => h'.unbind _) fun _ => h'
    · exact h'

theorem Reached.setHealth (c : Nat) (v : CraneHealth) (h : Reached x A B Q fl₀ w.fl) :
    Reached x A B Q fl₀ (w.setHealth x c v).fl := by
  unfold Work.setHealth
  split
  · exact h
  · exact ite (fun _ => h) fun _ => h.onCrane.noteCrane _ _

theorem Reached.craneLost (c : Nat) (h : Reached x A B Q fl₀ w.fl) : Reached x A B Q fl₀ (w.craneLost x c).fl := by
  have h₁ := h.onCrane (n := c) (f := fun k => { k with up := false, fresh := true })
  unfold Work.craneLost
  split
  · exact h
  · dsimp only
    split
    · have h₂ := h₁.onCrane (n := c) (f := fun k => { k with health := .degraded, good := 0 })
      exact noteCrane _ _ (ite (fun _ => h₂.craneOut _ _) fun _ => h₂)
    · exact h₁.onCrane
    · exact h₁

theorem Reached.recordFault (c code : Nat) (h : Reached x A B Q fl₀ w.fl) :
    Reached x A B Q fl₀ (w.recordFault x c code).fl := by
  have h₁ := h.onCrane (n := c) (f := fun k => { k with fault := some code, cleared := false })
  unfold Work.recordFault
  split
  · exact h
  · refine ite (fun _ => ite (fun _ => h₁.noteCrane _ _) fun _ => h₁) fun _ => ?_
    have h₂ := h₁.onCrane (n := c) (f := fun k => { k with health := .faulted, good := 0 })
    exact noteCrane _ _ (ite (fun _ => h₂.craneOut _ _) fun _ => h₂)

theorem Reached.faultCleared (c : Nat) (h : Reached x A B Q fl₀ w.fl) : Reached x A B Q fl₀ (w.faultCleared x c).fl :=
  ite (fun _ => h.onCrane.noteCrane _ _) fun _ => h

theorem Reached.statusFault (c : Nat) (code : Option Nat) (h : Reached x A B Q fl₀ w.fl) :
    Reached x A B Q fl₀ (w.statusFault x c code).fl := by
  unfold Work.statusFault
  split
  · exact h.faultCleared _
  · exact ite (fun _ => h) fun _ => h.recordFault _ _

theorem Reached.craneRestored (c : Nat) (h : Reached x A B Q fl₀ w.fl) : Reached x A B Q fl₀ (w.craneRestored x c).fl := by
  have h₁ := h.onCrane (n := c) (f := fun k => { k with health := .normal })
  unfold Work.craneRestored
  dsimp only
  refine wantScan (noteCrane c .health ?_)
  split
  · exact h₁.unsuspend _ _
  · exact h₁

/-! ## Positions and reports -/

theorem Reached.breach (c : Nat) (h : Reached x A B Q fl₀ w.fl) : Reached x A B Q fl₀ (w.breach x c).fl := by
  have h₁ := h.onCrane (n := c) (f := fun k => { k with good := 0 })
  unfold Work.breach
  refine ite (fun _ => h₁) fun _ => noteCrane _ _ (.runway _ (suspendAll _ ?_))
  exact .foldl (fun _ c h => (h.askStop _).onCrane) _ h₁

theorem Reached.trim (c : Nat) (h : Reached x A B Q fl₀ w.fl) : Reached x A B Q fl₀ (w.trim x c).fl := by
  unfold Work.trim
  split
  · exact h
  · rename_i k hk
    split
    · rename_i g p hg _ _
      refine ite (fun _ => h) fun _ => ite (fun _ => h) fun _ => ?_
      refine h.narrow (old := g) (by rw [hk]; exact hg) ⟨?_, ?_⟩
      · exact Nat.le_max_right _ _
      · exact Nat.min_le_right _ _
    · exact h

theorem Reached.countGood (c : Nat) (h : Reached x A B Q fl₀ w.fl) : Reached x A B Q fl₀ (w.countGood x c).fl := by
  unfold Work.countGood
  split
  · exact h
  · refine ite (fun _ => ?_) fun _ => h
    exact ite (fun _ => craneRestored _ h.onCrane) fun _ => h.onCrane

theorem Reached.cranePosition (c p : Nat) (faulty : Bool) (h : Reached x A B Q fl₀ w.fl) :
    Reached x A B Q fl₀ (w.cranePosition x c p faulty).fl := by
  have h₁ := h.onCrane (n := c) (f := fun k => { k with position := some p, fresh := false })
  unfold Work.cranePosition
  split
  · exact h
  · refine ite (fun _ => ?_) fun _ => h.onCrane
    refine ite (fun _ => countGood _ (trim _ ?_)) fun _ => breach _ ?_
    all_goals exact ite (fun _ => (h₁.setHealth _ _).wantScan) fun _ => h₁

/-- The fault event of a crane report. -/
theorem Reached.faultEvent (c : Nat) (e : Option CraneReportEvent) (h : Reached x A B Q fl₀ w.fl) :
    Reached x A B Q fl₀ (match e with
      | some (.fault code) => w.recordFault x c code
      | some .faultCleared => w.faultCleared x c
      | _ => w).fl := by
  split
  · exact h.recordFault _ _
  · exact h.faultCleared _
  · exact h

theorem Reached.takeShown (c : Nat) (s : CraneStatus) (e : Option CraneReportEvent) (h : Reached x A B Q fl₀ w.fl) :
    Reached x A B Q fl₀ (w.takeShown x c s e).fl := by
  unfold Work.takeShown
  split
  · exact h.takeEvents _ _ _ _
  · exact h

theorem Reached.reportFault (c : Nat) (s : CraneStatus) (e : Option CraneReportEvent) (h : Reached x A B Q fl₀ w.fl) :
    Reached x A B Q fl₀ (w.reportFault x c s e).fl := (h.statusFault c s.fault).faultEvent c e

theorem Reached.craneReport (c : Nat) (s : CraneStatus) (e : Option CraneReportEvent) (h : Reached x A B Q fl₀ w.fl) :
    Reached x A B Q fl₀ (w.craneReport x c s e).fl :=
  ((((h.onCrane (n := c) (f := fun k =>
    { k with nodePhase := s.phase, nodeTag := s.tag, load := s.load, stopped := s.stopped })).cranePosition c s.position
      (s.faulty e)).takeShown c s e).reportFault c s e)

end

end Sys2Proof.Machine
end

