-- ==== Sys2Proof/Laws/Settle.lean ====
section
/-! SUPPORT. What is due at an event (examinations, waiting jobs, the scan), the reports of the hall line, and the floor's
part of the hall commands: each is a sequence of the elementary changes of Sys2Proof/Laws/Reached.lean. -/
namespace Sys2Proof.Machine

-- One theorem after the other: the package compiled as one text must not start a thread for each.
set_option Elab.async false

section
variable {x : Ctx} {A B Q : Prop} {fl₀ : Floor} {w : Work}

/-! ## Examination and staging -/

theorem Reached.commit (j : Job) (h : Reached x A B Q fl₀ w.fl) : Reached x A B Q fl₀ (w.commit j).fl :=
  (h.setHold _ _).onJob (hk := fun _ _ _ h => nomatch h)

theorem Reached.stageOnBed (j : Job) (h : Reached x A B Q fl₀ w.fl) : Reached x A B Q fl₀ (w.stageOnBed x j).fl :=
  ((h.commit j).onJob.noteJob _ _ _ _).handJob _

theorem Reached.stageByMove (j : Job) (k : MoveKind) (p : Place) (hA : A) (h : Reached x A B Q fl₀ w.fl) :
    Reached x A B Q fl₀ (w.stageByMove x j k p).fl := by
  unfold Work.stageByMove
  split
  · rename_i hc; exact h.created hc hA
  · rename_i hc; exact ((h.created hc hA).commit j).onJob.noteJob _ _ _ _

theorem Reached.stage (st : Station) (j : Job) (h : Reached x A B Q fl₀ w.fl) : Reached x A B Q fl₀ (w.stage x st j).fl := by
  unfold Work.stage
  split
  · exact h
  · rename_i hp
    split
    · exact ite (fun _ => h.stageOnBed _) fun _ => h
    · exact ite (fun _ => h.stageByMove _ _ _ (h.of_plate hp)) fun _ => h
    · exact ite (fun _ => h.stageByMove _ _ _ (h.of_plate hp)) fun _ => h
    · exact h

/-- The picked job is a job present (R83). -/
theorem Floor.picked_mem {fl : Floor} {st : Station} {j : Job} (h : fl.picked st = some j) : j ∈ fl.jobs := by
  unfold Floor.picked at h
  split at h
  · cases h
  · split at h
    · split at h
      · exact (List.mem_filter.1 (List.mem_of_find?_eq_some h)).1
      · cases h
    · exact (List.mem_filter.1 (List.mem_of_head? h)).1

theorem Reached.toHead {j : Job} (hj : j ∈ w.fl.jobs) (h : Reached x A B Q fl₀ w.fl) :
    Reached x A B Q fl₀ (w.fl.toHead j) := .jobFirst j hj h

theorem Reached.examineStation (n : Nat) (h : Reached x A B Q fl₀ w.fl) :
    Reached x A B Q fl₀ (w.examineStation x n).fl := by
  unfold Work.examineStation
  split
  · exact h
  · split
    · exact h
    · rename_i st _ _ j hj
      have h' : Reached x A B Q fl₀ (if st.bed.isSome then { w with fl := w.fl.toHead j } else w : Work).fl :=
        ite (fun _ => h.toHead (Floor.picked_mem hj)) fun _ => h
      exact ite (fun _ => h'.stage _ _) fun _ => h'

/-! ## Waiting jobs -/

theorem Reached.serveJob (freed : Bool) (j : Job) (h : Reached x A B Q fl₀ w.fl) :
    Reached x A B Q fl₀ (w.serveJob x freed j).fl := by
  unfold Work.serveJob
  dsimp only
  split
  · exact h
  · split
    · exact ite (fun _ => h.storeRequest _) fun _ => h
    · exact ite (fun _ => h.skeletonRequest _) fun _ => h
    · exact h

theorem Reached.serveStation (freed : Bool) (n : Nat) (h : Reached x A B Q fl₀ w.fl) :
    Reached x A B Q fl₀ (w.serveStation x freed n).fl := by
  unfold Work.serveStation
  split
  · exact h.serveJob _ _
  · exact h.examineStation _

/-! ## The scan -/

theorem Reached.offerMove (t : Nat) : ∀ (cs : List Nat) {w : Work}, Reached x A B Q fl₀ w.fl →
    Reached x A B Q fl₀ (offerMove x t cs w).fl
  | [], _, h => h
  | c :: cs, w, h => by
    unfold Machine.offerMove
    split
    · rename_i k _ hk
      refine ite (fun _ => Reached.offerMove t cs ((h.bind t c fun hB => ?_).attemptGrant t)) fun _ => h
      have := (h.cranes_known hB).2 _ (Table.mem_of_get _ hk)
      rwa [Table.key_of_get Crane.num hk] at this
    · exact h

theorem Reached.scanMove (t : Nat) (h : Reached x A B Q fl₀ w.fl) : Reached x A B Q fl₀ (w.scanMove x t).fl := by
  unfold Work.scanMove
  split
  · exact ite (fun _ => h.offerMove _ _) fun _ => h
  · exact h

theorem Reached.scanQueue (h : Reached x A B Q fl₀ w.fl) : Reached x A B Q fl₀ (w.scanQueue x).fl :=
  .foldl (f := Work.scanMove x) (fun _ t h => h.scanMove t) _ h

theorem Reached.settleOnce (h : Reached x A B Q fl₀ w.fl) : Reached x A B Q fl₀ (w.settleOnce x).fl := by
  unfold Work.settleOnce
  have h₁ : Reached x A B Q fl₀
      (if w.serve then w.fl.stationNums.foldl (Work.serveStation x w.freed) { w with serve := false, freed := false } else w).fl :=
    ite (fun _ => .foldl (fun _ n h => h.serveStation _ n) _ h) fun _ => h
  generalize (if w.serve then w.fl.stationNums.foldl (Work.serveStation x w.freed) { w with serve := false, freed := false } else w) = w₁ at h₁
  have h₂ : Reached x A B Q fl₀
      (if w₁.examine then w₁.fl.stationNums.foldl (Work.examineStation x) { w₁ with examine := false } else w₁).fl :=
    ite (fun _ => .foldl (fun _ n h => h.examineStation n) _ h₁) fun _ => h₁
  exact ite (fun _ => h₂.scanQueue) fun _ => h₂

theorem Reached.settle : ∀ (fuel : Nat) {w : Work}, Reached x A B Q fl₀ w.fl → Reached x A B Q fl₀ (settle x fuel w).fl
  | 0, _, h => h
  | fuel + 1, w, h => by
    unfold Machine.settle
    exact ite (fun _ => Reached.settle fuel h.settleOnce) fun _ => h

/-! ## The health of nodes (R145, R146) -/

theorem Reached.tellLost (a : Nat) (h : Reached x A B Q fl₀ w.fl) : Reached x A B Q fl₀ (w.tellLost x a).fl := by
  unfold Work.tellLost
  split
  · exact h.onStation.addReason _ _
  · exact h.craneLost _
  · exact h.rackLost _
  · exact h

theorem Reached.tellUp (a : Nat) (h : Reached x A B Q fl₀ w.fl) : Reached x A B Q fl₀ (w.tellUp x a).fl := by
  unfold Work.tellUp
  split
  · exact h.onCrane
  · exact h.rackUp _
  · exact h

theorem Reached.tellRoom (a : Nat) (h : Reached x A B Q fl₀ w.fl) : Reached x A B Q fl₀ (w.tellRoom x a).fl := by
  unfold Work.tellRoom
  split
  · exact h.drain _
  · exact h.drainCrane _ _
  · exact h

theorem Reached.setNodeHealth (a : Nat) (v : NodeHealth) (c : NodeCause) (k : Option NodeKind)
    (h : Reached x A B Q fl₀ w.fl) : Reached x A B Q fl₀ (w.setNodeHealth x a v c k).fl := by
  unfold Work.setNodeHealth
  split
  · exact h
  · refine ite (fun _ => h) fun _ => ?_
    exact ite (fun _ => tellUp (w := Work.note x _ _) a h.onNode) fun _ => tellLost (w := Work.note x _ _) a h.onNode

theorem Reached.miss (a : Nat) (h : Reached x A B Q fl₀ w.fl) : Reached x A B Q fl₀ (w.miss x a).fl := by
  unfold Work.miss
  split
  · exact h
  · exact ite (fun _ => h.onNode.setNodeHealth _ _ _ _) fun _ => h.onNode

/-! ## Reports to a station -/

theorem Reached.newFinish (n : Nat) (s : StationStatus) (h : Reached x A B Q fl₀ w.fl) :
    Reached x A B Q fl₀ (w.newFinish x n s).fl := by
  have h' := h.onStation (n := n) (f := fun st => { st with sequence := some s.sequence })
  unfold Work.newFinish
  dsimp only
  split
  · exact ite (fun _ => h'.entryResult _ _ _ _) fun _ => ite (fun _ => h') fun _ => h'.unmatched _ _ _ _ _ _
  · exact ite (fun _ => h') fun _ => h'.unmatched _ _ _ _ _ _

theorem Reached.linkLost (n : Nat) (e : InProgress) (h : Reached x A B Q fl₀ w.fl) :
    Reached x A B Q fl₀ (w.linkLost x n e).fl := by
  have h' := h.entryResult n (some .linkLost) 0 0
  unfold Work.linkLost
  dsimp only
  split
  · rename_i hm; exact h'.withdraw hm
  · exact h'.askStop _

theorem Reached.nodeReturn (n : Nat) (s : StationStatus) (h : Reached x A B Q fl₀ w.fl) :
    Reached x A B Q fl₀ (w.nodeReturn x n s).fl := by
  have h' := h.onStation (n := n) (f := fun st => { st with up := true })
  unfold Work.nodeReturn
  split
  · exact h
  · refine removeReason _ _ (onStation ?_)
    split
    · refine ite (fun _ => h'.newFinish _ _) fun _ => ?_
      exact ite (fun _ => (h'.linkLost _ _).newFinish _ _) fun _ => h'.linkLost _ _
    · exact ite (fun _ => h'.newFinish _ _) fun _ => h'

theorem Reached.entryStarted (n i : Nat) (k : Option Phase) (h : Reached x A B Q fl₀ w.fl) :
    Reached x A B Q fl₀ (w.entryStarted x n i k).fl := by
  unfold Work.entryStarted
  split
  · exact ite (fun _ => h.onStation.noteEntry _ _ _ _ _ _ _) fun _ => h
  · exact h

theorem Reached.stationFault (n : Nat) (f : Option Nat) (h : Reached x A B Q fl₀ w.fl) :
    Reached x A B Q fl₀ (w.stationFault x n f).fl := by
  unfold Work.stationFault
  split
  · exact h
  · exact ite (fun _ => h) fun _ => h.onStation.noteStation _ _ _

theorem Reached.partsSeen (n : Nat) (h : Reached x A B Q fl₀ w.fl) : Reached x A B Q fl₀ (w.partsSeen x n).fl := by
  unfold Work.partsSeen
  split
  · refine ite (fun _ => ?_) fun _ => h
    split
    · exact h.partsCleared _
    · exact h
  · exact h

/-- The event of a station's report, in its two places. -/
theorem Reached.startedEvent (n : Nat) (e : Option StationEvent) (h : Reached x A B Q fl₀ w.fl) :
    Reached x A B Q fl₀ (match e with
      | some (.started i k) => w.entryStarted x n i k
      | _ => w).fl := by
  split
  · exact h.entryStarted _ _ _
  · exact h
theorem Reached.stationFaultEvent (n : Nat) (e : Option StationEvent) (h : Reached x A B Q fl₀ w.fl) :
    Reached x A B Q fl₀ (match e with
      | some (.fault code) => w.stationFault x n (some code)
      | some .faultCleared => w.stationFault x n none
      | _ => w).fl := by
  split
  · exact h.stationFault _ _
  · exact h.stationFault _ _
  · exact h

theorem Reached.stationReport (n : Nat) (s : StationStatus) (e : Option StationEvent) (h : Reached x A B Q fl₀ w.fl) :
    Reached x A B Q fl₀ (w.stationReport x n s e).fl := by
  unfold Work.stationReport
  split
  · exact h
  · rename_i st _
    have h₁ : Reached x A B Q fl₀ (if st.up then (if st.sequence = some s.sequence then w else w.newFinish x n s)
        else w.nodeReturn x n s).fl :=
      ite (fun _ => ite (fun _ => h) fun _ => h.newFinish _ _) fun _ => h.nodeReturn _ _
    have h₂ := ((h₁.startedEvent n e).stationFault n s.fault).stationFaultEvent n e
    exact ite (fun _ => partsSeen _ h₂) fun _ => h₂

/-! ## Good reports (R146) -/

theorem Reached.handStatus (a : Nat) (r : Report) (h : Reached x A B Q fl₀ w.fl) :
    Reached x A B Q fl₀ (w.handStatus x a r).fl := by
  unfold Work.handStatus
  dsimp only
  split
  · split
    · exact h.stationReport _ _ _
    · exact h
  · split
    · exact h.craneReport _ _ _
    · exact h
  · exact h.rackReport _ _
  · exact h

@[simp] theorem Node.acknowledge_address (stop : Bool) (t : Nat) (n : Node) :
    (n.acknowledge stop t).address = n.address := rfl

theorem Reached.goodReport (v : Visit) (r : Report) (h : Reached x A B Q fl₀ w.fl) :
    Reached x A B Q fl₀ (w.goodReport x v r).fl := by
  unfold Work.goodReport
  split
  · exact h
  · refine ite (fun _ => ?_) fun _ => h.onNode.onNode.setNodeHealth _ _ _ _
    exact (((h.onNode.setNodeHealth _ _ _ _).onNode fun s hs => by simpa using hs).tellRoom _).handStatus _ _

theorem Reached.takeReport (v : Visit) (cs : List LineChar) (h : Reached x A B Q fl₀ w.fl) :
    Reached x A B Q fl₀ (w.takeReport x v cs).fl := by
  unfold Work.takeReport
  split
  · exact h.goodReport _ _
  · exact h.miss _

/-! ## Every station, every crane -/

theorem Reached.addReasonAll (r : HoldReason) (h : Reached x A B Q fl₀ w.fl)
    (hr : Q → r ≠ .hall ∧ r ≠ .frozen := by intro _; decide) :
    Reached x A B Q fl₀ (w.addReasonAll x r).fl := .foldl (fun _ n h => h.addReason n r hr) _ h

theorem Reached.removeReasonsAll (rs : List HoldReason) (h : Reached x A B Q fl₀ w.fl) :
    Reached x A B Q fl₀ (w.removeReasonsAll x rs).fl :=
  .foldl (fun _ n h => .foldl (fun _ r h => h.removeReason n r) _ h) _ h

theorem Reached.onTimers (f : Timer → Timer) (hf : ∀ t : Timer, t.keeps x.hall (f t)) (h : Reached x A B Q fl₀ w.fl) :
    Reached x A B Q fl₀ (w.onTimers f).fl :=
  .moves (fun m => { m with wait := f m.wait }) (fun _ => ⟨rfl, fun _ h => h⟩)
    (fun m hm => ⟨hf m.wait, fun _ hz => ⟨m, hm, rfl, hz⟩⟩)
    (.jobs (fun j => { j with timer := f j.timer }) (fun _ => rfl) (fun j => hf j.timer)
      (.stations (fun s => { s with park := f s.park }) (fun _ => rfl)
        (fun s => ⟨hf s.park, fun _ => ⟨fun h => h, fun h => h⟩, id⟩) h))

theorem Reached.drainAll (h : Reached x A B Q fl₀ w.fl) : Reached x A B Q fl₀ (w.drainAll x).fl :=
  .foldl (fun _ c h => h.drainCrane c 5) _ (.foldl (fun _ n h => h.drain n) _ h)

theorem Reached.resumeHall (h : Reached x A B Q fl₀ w.fl) : Reached x A B Q fl₀ (w.resumeHall x).fl :=
  ((h.clearStops _).unsuspendAll _).removeReasonsAll _

/-- A freeze, but for the broadcast (R159). -/
theorem Reached.stopAll (hQ : ¬ Q) (h : Reached x A B Q fl₀ w.fl) :
    Reached x A B Q fl₀ { w.fl with cranes := w.fl.cranes.map fun k => { k with stopFrozen := true } } :=
  .cranes _ (fun _ => ⟨rfl, rfl⟩) (fun _ hq => absurd hq hQ) h

end

/-! ## The line (R138, R147) -/

/-- A floor that differs from another in its line alone, whose nodes stand at the same addresses. -/
def Floor.lineMoved (fl fl' : Floor) : Prop :=
  fl' = { fl with line := fl'.line } ∧ fl'.line.nodes.map Node.address = fl.line.nodes.map Node.address

theorem Floor.lineMoved.trans {a b c : Floor} (h : a.lineMoved b) (h' : b.lineMoved c) : a.lineMoved c := by
  refine ⟨?_, h'.2.trans h.2⟩
  rw [h'.1, h.1]

section
variable {x : Ctx} {w : Work}

theorem Work.onLine_moved {f : Line → Line} (hf : (f w.fl.line).nodes.map Node.address = w.fl.line.nodes.map Node.address) :
    w.fl.lineMoved (w.onLine f).fl := ⟨rfl, hf⟩

/-- A visit frame leaves the node's address. -/
@[simp] theorem Node.visitFrame_address (hall : HallState) (n : Node) : (n.visitFrame hall).2.address = n.address := by
  unfold Node.visitFrame
  split
  · rfl
  · split
    · split <;> rfl
    · rfl

theorem Work.beginVisit_moved (n : Node) (due : List Nat) : w.fl.lineMoved (w.beginVisit x n due).fl :=
  ⟨rfl, Table.keys_amend _ (by intro _ _; simp) _⟩

theorem nextVisit_moved : ∀ (ps : List Nat) (w : Work), w.fl.lineMoved (nextVisit x ps w).fl
  | [], _ => ⟨rfl, rfl⟩
  | p :: ps, w => by
    unfold nextVisit
    split
    · exact Work.beginVisit_moved _ _
    · exact nextVisit_moved ps w

theorem Work.lineFree_moved : w.fl.lineMoved (w.lineFree x).fl := by
  unfold Work.lineFree
  split
  · exact ⟨rfl, rfl⟩
  · exact nextVisit_moved _ _

theorem Work.endVisit_moved : w.fl.lineMoved (w.endVisit x).fl :=
  (Work.onLine_moved (f := fun l => { l with visit := none }) rfl).trans (w.onLine _).lineFree_moved

theorem Work.beginRound_moved (round : Nat) : w.fl.lineMoved (w.beginRound x round).fl := by
  unfold Work.beginRound
  dsimp only
  split
  · exact (Work.onLine_moved (f := fun l => { l with round := round, due := dueIn x.cfg.polls round, gap := false })
      rfl).trans (nextVisit_moved _ _)
  · exact ⟨rfl, rfl⟩

theorem Work.broadcastStop_moved : w.fl.lineMoved w.broadcastStop.fl := ⟨rfl, map_key (f := Node.placeStop) (fun _ => rfl) _⟩

end

end Sys2Proof.Machine
end

