-- ==== Sys2Proof/Laws/Commands.lean ====
section
/-! SUPPORT. What the requests and the expiries do to the floor: each is a sequence of the elementary changes of
Sys2Proof/Laws/Reached.lean. -/
namespace Sys2Proof.Machine

-- One theorem after the other: the package compiled as one text must not start a thread for each.
set_option Elab.async false

section
variable {x : Ctx} {A B Q : Prop} {fl₀ : Floor} {w : Work}

/-! ## Plates and stock -/

/-- The record of a new plate has the figures of the formulas (R2, R11, R12). -/
theorem Hall.newPlate_figures (h : Hall) (kind : PlateKind) (grade thickness : Nat) (heat : Text) (len wid : Nat)
    (notch : Option Notch) (loc : Location) :
    (h.newPlate kind grade thickness heat len wid notch loc).figuresHold h.cfg := ⟨rfl, rfl⟩

theorem Reached.releasePlate (p : Plate) (h : Reached x A B Q fl₀ w.fl) : Reached x A B Q fl₀ (w.releasePlate x p).fl := by
  have h' := h.setHold p.id .free
  unfold Work.releasePlate
  dsimp only
  split
  · split
    · exact (h'.setCond _ _).storeRequest _
    · exact h'
  · exact h'

theorem Reached.removePlate (p : Plate) (h : Reached x A B Q fl₀ w.fl) : Reached x A B Q fl₀ (w.removePlate x p).fl := by
  have h' := h.deletePlate p.id
  unfold Work.removePlate
  split
  · dsimp only
    split
    · exact (h'.setCond _ _).beginSkeleton _
    · exact ite (fun _ => (h'.changeState _ _).wantScan) fun _ => h'
  · exact h'

theorem Reached.placeRemnant (r n : Nat) (p : Plate) (hp : p.figuresHold x.cfg) (hA : A) (h : Reached x A B Q fl₀ w.fl) :
    Reached x A B Q fl₀ (w.placeRemnant x r n p).fl := by
  have h' := h.addPlate p hp hA
  exact ite (fun _ => (h'.onSlot _ _ _).evaluateSlot _ _ _) fun _ => h'.onSlot _ _ _

/-! ## Stations -/

theorem Reached.consumablesChanged (n : Nat) (h : Reached x A B Q fl₀ w.fl) :
    Reached x A B Q fl₀ (w.consumablesChanged x n).fl := by
  have h' := h.onStation (n := n) (f := fun st => { st with wear := 0 })
  exact removeReason _ _ (ite (fun _ => h'.addReason _ _) fun _ => h')

/-! ## Jobs -/

theorem Reached.lapse (j : Job) (h : Reached x A B Q fl₀ w.fl) : Reached x A B Q fl₀ (w.lapse x j).fl := by
  unfold Work.lapse
  exact closeJob _ _ _ (ite (fun _ => h.freePlate _) fun _ => h)

theorem Reached.enterJob (j : Job) (hj : w.fl.job? j.id = none) (ht : x.hall = .frozen → j.timer.state ≠ .running) (hA : A)
    (h : Reached x A B Q fl₀ w.fl) :
    Reached x A B Q fl₀ (w.enterJob x j).fl :=
  (noteJob _ _ _ _ (setHold _ _ (w := { w with fl := { w.fl with jobs := w.fl.jobs ++ [j] } }) (.jobAdded j hj ht hA h)))

theorem Reached.cancelNow (j : Job) (h : Reached x A B Q fl₀ w.fl) : Reached x A B Q fl₀ (w.cancelNow x j).fl :=
  (h.freePlate _).closeJob _ _ _

theorem Reached.deferCancel (j : Job) (h : Reached x A B Q fl₀ w.fl) : Reached x A B Q fl₀ (w.deferCancel x j).fl :=
  h.onJob.noteJob _ _ _ _

theorem Reached.dropWaiting (t : Option Nat) (h : Reached x A B Q fl₀ w.fl) : Reached x A B Q fl₀ (w.dropWaiting x t).fl := by
  unfold Work.dropWaiting
  split
  · exact h.deleteMove _
  · exact h

theorem Reached.scrapRemnant (j : Job) (c : CloseOut) (r : Nat) (h : Reached x A B Q fl₀ w.fl) :
    Reached x A B Q fl₀ (w.scrapRemnant x j c r).fl :=
  ((((h.dropWaiting c.storeTag).deletePlate r).onCloseOut _ _).setCond _ _).beginSkeleton _

theorem Reached.skeletonManual (j : Job) (c : CloseOut) (h : Reached x A B Q fl₀ w.fl) :
    Reached x A B Q fl₀ (w.skeletonManual x j c).fl := ((h.dropWaiting c.skelTag).onCloseOut _ _).closeOutEnd _

/-! ## Moves and cranes -/

theorem Reached.submit (m : Move) (hm : w.fl.move? m.tag = none) (hc : m.crane = none) (hs : m.state = .waiting)
    (ht : x.hall = .frozen → m.wait.state ≠ .running) (hA : A) (h : Reached x A B Q fl₀ w.fl) :
    Reached x A B Q fl₀ (w.submit m).fl := .moveAdded m hm hc hs ht hA h

theorem Reached.withdrawBound (t : Nat) (h : Reached x A B Q fl₀ w.fl) : Reached x A B Q fl₀ (w.withdrawBound x t).fl :=
  (h.unbind t).deleteMove t

theorem Reached.waitExpired (m : Move) (h : Reached x A B Q fl₀ w.fl) : Reached x A B Q fl₀ (w.waitExpired x m).fl :=
  ite (fun _ => h.failMove _ _) fun _ =>
    onMove h (hk := fun s hs _ => ⟨s.wait.stop_keeps _, fun _ hz => ⟨s, hs, rfl, hz⟩⟩)

theorem Reached.restore (c : Nat) (h : Reached x A B Q fl₀ w.fl) : Reached x A B Q fl₀ (w.restore x c).fl :=
  h.onCrane.craneRestored _

theorem Reached.resumeRunway (h : Reached x A B Q fl₀ w.fl) : Reached x A B Q fl₀ (w.resumeRunway x).fl := by
  have h' := (clearStops (x := x) true (w := { w with fl := { w.fl with runwayStopped := false } })
    (.runway false h)).unsuspendAll [.breach]
  unfold Work.resumeRunway
  dsimp only at h' ⊢
  refine wantScan ?_
  split
  · exact h'.noteCrane _ _
  · exact h'

/-! ## The hall -/

/-- The floor's part of CLEAR_FREEZE into another state than SETUP (R160). -/
theorem Reached.leaveFrozen (hx : x.hall ≠ .setup) (hf : x.hall ≠ .frozen) (h : Reached x A B Q fl₀ w.fl) :
    Reached x A B Q fl₀ (w.leaveFrozen x).fl := by
  unfold Work.leaveFrozen
  split
  · rename_i hs; exact absurd hs hx
  · exact (((h.onTimers _ fun _ hz => absurd hz hf).removeReasonsAll _).clearStops _).drainAll
  · exact (h.onTimers _ fun _ hz => absurd hz hf).drainAll

/-- A timer paused stands (R20). -/
theorem Timer.pause_keeps (hall : HallState) (t : Timer) : t.keeps hall t.pause := by
  intro _ h
  unfold Timer.pause at h
  split at h
  · cases h
  · exact h

/-- The floor's part of a freeze (R159): the elementary changes, and then the line's broadcast. -/
theorem Reached.freezeFloor (s : Bool) (hQ : ¬ Q) (h : Reached x A B Q fl₀ w.fl) :
    ∃ fl, Reached x A B Q fl₀ fl ∧ fl.lineMoved (w.freezeFloor x s).fl := by
  have h' := ((h.onTimers Timer.pause (Timer.pause_keeps _)).suspendAll .frozen fun hq => absurd hq hQ).addReasonAll .frozen
    fun hq => absurd hq hQ
  unfold Work.freezeFloor
  dsimp only at h' ⊢
  split
  · exact ⟨_, h', rfl, rfl⟩
  · exact ⟨_, h'.stopAll hQ, Work.broadcastStop_moved⟩

end

/-- The line after the broadcast's window (R147). -/
theorem Work.afterBroadcast_moved {x : Ctx} {w : Work} : w.fl.lineMoved (w.afterBroadcast x).fl := by
  have h : w.fl.lineMoved (w.onLine fun l => { l with broadcast := .none }).fl := ⟨rfl, rfl⟩
  unfold Work.afterBroadcast
  dsimp only
  split
  · exact h.trans Work.lineFree_moved
  · split
    · exact h
    · exact h.trans (nextVisit_moved _ _)

end Sys2Proof.Machine
end

