-- ==== Sys2Proof/Laws/Hall.lean ====
section
/-! SUPPORT. An event on the whole hall: what the close and the settling of it leave, the entry to SETUP, START, and what
serving a request leaves of the hall. -/
namespace Sys2Proof.Machine

-- One theorem after the other: the package compiled as one text must not start a thread for each.
set_option Elab.async false

/-! ## Events -/

/-- The close of an event does not bring the hall into SETUP. -/
theorem Hall.close_inSetup (h : Hall) (out : List Notice) (hs : (h.close out).1.inSetup) : h.inSetup := by
  revert hs
  unfold Hall.close Hall.inSetup
  dsimp only
  cases h.sup.state == .holding && h.fl.atRest <;> simp

theorem Hall.onFloorThen_inSetup (h : Hall) (before : List Notice) (f line : Ctx → Work → Work)
    (hs : (h.onFloorThen before f line).1.inSetup) : h.inSetup := by
  revert hs
  unfold Hall.onFloorThen
  exact fun hs => (Hall.close_inSetup _ _ hs : _)

/-- An event whose own effect is a sequence of elementary changes, what is due at it included, and then the line. -/
theorem Hall.onFloorThen_reached {h : Hall} {A B Q : Prop} {before : List Notice} {f line : Ctx → Work → Work}
    (hf : Reached h.ctx A B Q h.fl (f h.ctx (Work.begin h.fl)).fl) (hl : ∀ w : Work, w.fl.lineMoved (line h.ctx w).fl) :
    ∃ fl, Reached h.ctx A B Q h.fl fl ∧ fl.lineMoved (h.onFloorThen before f line).1.fl := by
  refine ⟨_, hf.settle 64, ?_⟩
  rw [Hall.onFloorThen_fl]
  exact hl _

/-- An event that does not carry the line on. -/
theorem Hall.onFloor_reached {h : Hall} {A B Q : Prop} {before : List Notice} {f : Ctx → Work → Work}
    (hf : Reached h.ctx A B Q h.fl (f h.ctx (Work.begin h.fl)).fl) :
    Reached h.ctx A B Q h.fl (h.onFloor before f).1.fl := by
  unfold Hall.onFloor
  rw [Hall.onFloorThen_fl]
  exact hf.settle 64

/-! ## The hall after a command -/

/-- A request leaves the hall or serves it. -/
theorem State.serveHall_hall (s : State) (c : Instr) (tag : Nat) (f : Hall → Answer) :
    (s.serveHall c tag f).hall = s.hall ∨ (s.serveHall c tag f).hall = (f s.hall).hall := by
  unfold State.serveHall State.serve
  split
  · exact .inl rfl
  · exact .inl rfl
  · exact .inr rfl

/-- A request of the Host Link Interface leaves the hall. -/
theorem State.serveLink_hall (s : State) (c : Instr) (tag : Nat) (f : Hall → HostLink → Reply × HostLink) :
    (s.serveLink c tag f).hall = s.hall := by
  unfold State.serveLink State.serve
  split <;> rfl

theorem State.event_hall (s : State) (f : Hall → Hall × List Notice) : (s.event f).hall = (f s.hall).1 := rfl

/-- A request accepted in READY, RUN, HOLDING and HELD alone meets no SETUP. -/
theorem Hall.not_inSetup {h : Hall} (hs : h.sup.state ∈ workingStates) : ¬ h.inSetup := by
  unfold Hall.inSetup
  cases hh : h.sup.state <;> rw [hh] at hs <;> simp [workingStates] at hs ⊢

/-! ## The entry to SETUP (R161) -/

/-- The floor of an entry to SETUP: its notices leave it (R161). -/
theorem Work.enterSetup_fl (x : Ctx) (w : Work) : (w.enterSetup x).fl = { w.fl with
        stations := w.fl.stations.map Station.atSetup
        racks := w.fl.racks.map fun k => { k with up := false, slots := k.slots.map fun s => Slot.initial s.num }
        cranes := w.fl.cranes.map fun k => Crane.initial k.num
        moves := []
        runwayStopped := false
        line := Line.silent } := by
  have offline : ∀ (l : List Crane) (w : Work), (w.noteOffline x l).fl = w.fl := by
    intro l
    unfold Work.noteOffline
    induction l with
    | nil => intro w; rfl
    | cons a l ih => intro w; rw [List.foldl_cons, ih]; split <;> simp
  unfold Work.enterSetup
  have : ∀ (l : List Station) (w : Work), (l.foldl (fun w st => w.noteSetup x st) w).fl = w.fl := by
    intro l
    induction l with
    | nil => intro w; rfl
    | cons a l ih =>
      intro w
      rw [List.foldl_cons, ih]
      unfold Work.noteSetup
      dsimp only
      have : ∀ (l : List HoldReason) (w : Work),
          (l.foldl (fun w r => w.noteStation x a.num .reasonRemoved (some r)) w).fl = w.fl := by
        intro l
        induction l with
        | nil => intro w; rfl
        | cons a l ih => intro w; rw [List.foldl_cons, ih]; simp
      split <;> (try rw [Work.noteStation_fl]) <;> rw [this] <;> split <;> simp
  exact (offline _ _).trans (this _ _)

/-! ## START (R116, R156) -/

/-- A crane of a table in order is the one that its number finds. -/
theorem crane_of_num {l : List Crane} (hp : (l.map Crane.num).Pairwise (· < ·)) {k : Crane} (hk : k ∈ l) :
    Table.get Crane.num k.num l = some k := by
  unfold Table.get
  induction l with
  | nil => cases hk
  | cons a l ih =>
    rw [List.find?_cons]
    rw [List.map_cons, List.pairwise_cons] at hp
    rcases List.mem_cons.1 hk with rfl | hk
    · simp
    · have : a.num < k.num := hp.1 _ (List.mem_map_of_mem hk)
      have : (a.num == k.num) = false := by simp; omega
      rw [this]; exact ih hp.2 hk

/-- Orders leave positions and grants. -/
theorem drainCrane_tracks (x : Ctx) (c : Nat) : ∀ (fuel : Nat) (w : Work), (drainCrane x c fuel w).fl.tracks = w.fl.tracks
  | 0, _ => rfl
  | fuel + 1, w => by
    unfold drainCrane
    split
    · rfl
    · split
      · rfl
      · split
        · rfl
        · rename_i hr
          rw [drainCrane_tracks x c fuel, Work.onCrane_tracks (by intro k; exact ⟨rfl, rfl, rfl⟩)]
          obtain ⟨_, n, m, _, _, hw⟩ := Work.handOrder_some hr
          dsimp only at hw
          rw [hw]; rfl
theorem Work.produceLimit_tracks (x : Ctx) (c : Nat) (w : Work) : (w.produceLimit x c).fl.tracks = w.fl.tracks := by
  unfold Work.produceLimit
  split
  · unfold Work.craneOrder
    rw [drainCrane_tracks, Work.onCrane_tracks (by intro k; exact ⟨rfl, rfl, rfl⟩)]
  · rfl

/-- What a grant made does to the track of a crane. -/
def grantTo (c : Nat) (g : Grant) (t : Nat × Option Nat × Option Grant) : Nat × Option Nat × Option Grant :=
  if t.1 = c then (t.1, t.2.1, some g) else t

/-- A grant set changes the grant of its crane alone. -/
theorem Work.setGrant_tracks (x : Ctx) (c : Nat) (g : Grant) (w : Work) :
    (w.setGrant x c g).fl.tracks = w.fl.tracks.map (grantTo c g) := by
  unfold Work.setGrant
  rw [Work.produceLimit_tracks]
  unfold Floor.tracks Work.onCrane Table.amend
  dsimp only
  rw [List.map_map, List.map_map]
  apply List.map_congr_left
  intro k _
  dsimp only [Function.comp, grantTo]
  split
  · rename_i h; simp
  · simp

/-- The own span of a crane where it stands (R116). -/
def Ctx.ownSpan (x : Ctx) (k : Crane) : Grant := spanOf x.cfg.runwayLength (x.halfSpan k.num) (k.position.getD 0)

/-- Grants made to the cranes of a table in order, seen from one of them. -/
theorem grants_made (x : Ctx) : ∀ {l : List Crane}, (l.map Crane.num).Pairwise (· < ·) → ∀ (k : Crane) (g₀ : Option Grant),
    l.foldl (fun t j => grantTo j.num (x.ownSpan j) t) (k.num, k.position, g₀)
      = (k.num, k.position, ((Table.get Crane.num k.num l).map x.ownSpan).or g₀)
  | [], _, k, g₀ => by simp [Table.get]
  | a :: l, hp, k, g₀ => by
    rw [List.map_cons, List.pairwise_cons] at hp
    rw [List.foldl_cons]
    unfold Table.get
    rw [List.find?_cons]
    by_cases h : k.num = a.num
    · have hn : Table.get Crane.num k.num l = none := by
        unfold Table.get
        rw [List.find?_eq_none]
        intro j hj
        have := hp.1 _ (List.mem_map_of_mem hj)
        simp
        omega
      unfold grantTo
      rw [if_pos h]
      refine (grants_made x hp.2 k _).trans ?_
      rw [hn]
      simp [h]
    · unfold grantTo
      rw [if_neg h]
      refine (grants_made x hp.2 k _).trans ?_
      have : (a.num == k.num) = false := by simp; omega
      rw [this]
      rfl

/-- START leaves every crane where it is, and its grant becomes its span (R116, R156). -/
theorem Work.startHall_tracks (x : Ctx) (w : Work) (hp : (w.fl.cranes.map Crane.num).Pairwise (· < ·)) :
    (w.startHall x).fl.tracks = w.fl.cranes.map fun k => (k.num, k.position, some (x.ownSpan k)) := by
  have all : ∀ (l : List Crane) (w : Work), (l.foldl (fun w k => w.setGrant x k.num (x.ownSpan k)) w).fl.tracks
      = w.fl.tracks.map fun t => l.foldl (fun t k => grantTo k.num (x.ownSpan k) t) t := by
    intro l
    induction l with
    | nil => intro w; simp
    | cons a l ih =>
      intro w
      rw [List.foldl_cons, ih, Work.setGrant_tracks, List.map_map]
      rfl
  refine (all w.fl.cranes w).trans ?_
  unfold Floor.tracks
  rw [List.map_map]
  apply List.map_congr_left
  intro k hk
  refine (grants_made x hp k k.grant).trans ?_
  rw [crane_of_num hp hk]
  rfl

end Sys2Proof.Machine
end

