-- ==== Sys2Proof/Laws/Link.lean ====
section
/-! SUPPORT. What the operations of the Host Link Interface leave, and what the service of a request answers: one lemma for
each, cited in place of unfolding. -/
namespace Sys2Proof.Machine

-- One theorem after the other: the package compiled as one text must not start a thread for each.
set_option Elab.async false

/-! ## Reported bytes that the part sends on (R175): each lies in the range of its field -/

theorem takenCode_le (n : Nat) : takenCode n ≤ 15 := by
  unfold takenCode; split
  · assumption
  · exact Nat.le_of_lt_succ (Config.sentTaken n).isLt
@[simp] theorem takenCode_of_le {n : Nat} (h : n ≤ 15) : takenCode n = n := if_pos h

theorem sentTag_le {t : Option Nat} {k : Nat} (h : sentTag t = some k) : k ≤ 31 := by
  unfold sentTag at h; split at h
  · split at h
    · cases h; assumption
    · obtain ⟨i, -, rfl⟩ := Option.map_eq_some_iff.1 h
      exact Nat.le_of_lt_succ i.isLt
  · cases h
@[simp] theorem sentTag_of_le {t : Nat} (h : t ≤ 31) : sentTag (some t) = some t := if_pos h

theorem indexCode_le (i : Nat) : indexCode i ≤ 48 := by
  unfold indexCode; split
  · assumption
  · exact (Config.sentIndex i).isLt
@[simp] theorem indexCode_of_le {i : Nat} (h : i ≤ 48) : indexCode i = i := if_pos h

/-! ## Notices and the transmitter -/

@[simp] theorem HostLink.raise_input (k : HostLink) (n : Notice) : (k.raise n).input = k.input := by
  unfold HostLink.raise; repeat' split
  all_goals rfl
@[simp] theorem HostLink.raise_overruns (k : HostLink) (n : Notice) : (k.raise n).overruns = k.overruns := by
  unfold HostLink.raise; repeat' split
  all_goals rfl
@[simp] theorem HostLink.raise_rx (k : HostLink) (n : Notice) : (k.raise n).rx = k.rx := by
  unfold HostLink.raise; repeat' split
  all_goals rfl
@[simp] theorem HostLink.raise_tx (k : HostLink) (n : Notice) : (k.raise n).tx = k.tx := by
  unfold HostLink.raise; repeat' split
  all_goals rfl
@[simp] theorem HostLink.raise_enabled (k : HostLink) (n : Notice) : (k.raise n).enabled = k.enabled := by
  unfold HostLink.raise; repeat' split
  all_goals rfl
@[simp] theorem HostLink.raise_discarded (k : HostLink) (n : Notice) : (k.raise n).discarded = k.discarded := by
  unfold HostLink.raise; repeat' split
  all_goals rfl

/-- A notice raised leaves at most 32 in the queue (R171). -/
theorem HostLink.raise_notices (k : HostLink) (n : Notice) (h : k.notices.length ≤ 32) :
    (k.raise n).notices.length ≤ 32 := by
  unfold HostLink.raise
  split
  · split
    · simp; omega
    · exact h
  · exact h

/-- What a fold keeps at each step it keeps at the end. -/
theorem HostLink.raiseAll_keeps (P : HostLink → Prop) (hP : ∀ k n, P k → P (k.raise n)) :
    ∀ (out : List Notice) (k : HostLink), P k → P (k.raiseAll out)
  | [], _, h => h
  | n :: out, k, h => HostLink.raiseAll_keeps P hP out (k.raise n) (hP k n h)

@[simp] theorem HostLink.raiseAll_nil (k : HostLink) : k.raiseAll [] = k := rfl
@[simp] theorem HostLink.raiseAll_input (k : HostLink) (out : List Notice) : (k.raiseAll out).input = k.input :=
  HostLink.raiseAll_keeps (fun j => j.input = k.input) (fun _ _ h => by simpa using h) out k rfl
@[simp] theorem HostLink.raiseAll_overruns (k : HostLink) (out : List Notice) :
    (k.raiseAll out).overruns = k.overruns :=
  HostLink.raiseAll_keeps (fun j => j.overruns = k.overruns) (fun _ _ h => by simpa using h) out k rfl
@[simp] theorem HostLink.raiseAll_rx (k : HostLink) (out : List Notice) : (k.raiseAll out).rx = k.rx :=
  HostLink.raiseAll_keeps (fun j => j.rx = k.rx) (fun _ _ h => by simpa using h) out k rfl
@[simp] theorem HostLink.raiseAll_tx (k : HostLink) (out : List Notice) : (k.raiseAll out).tx = k.tx :=
  HostLink.raiseAll_keeps (fun j => j.tx = k.tx) (fun _ _ h => by simpa using h) out k rfl

/-- What the transmitter may do: go on with what it sends, or begin an OVERRUN, a reply or a notice, in this order of
preference, or stay idle (R170). -/
theorem HostLink.pump_cases (k : HostLink) :
    (k.tx.isSome ∧ k.pump = k)
      ∨ (∃ o rest, k.tx = none ∧ k.overruns = o :: rest ∧ k.pump =
          { k with overruns := rest, tx := some ⟨.overrun, (Reply.refused .overrun .none).frame o.code o.tag⟩ })
      ∨ (∃ f, k.tx = none ∧ k.overruns = [] ∧ k.replyFrame = some f ∧ k.pump = { k with tx := some ⟨.reply, f⟩ })
      ∨ (∃ n rest, k.tx = none ∧ k.overruns = [] ∧ k.replyFrame = none ∧ k.notices = n :: rest ∧
          k.pump = { k with notices := rest, tx := some ⟨.notice, n.frame⟩ })
      ∨ (k.tx = none ∧ k.overruns = [] ∧ k.replyFrame = none ∧ k.notices = [] ∧ k.pump = k) := by
  unfold HostLink.pump
  cases htx : k.tx with
  | some f => simp
  | none =>
    cases ho : k.overruns with
    | cons o rest => exact .inr (.inl ⟨o, rest, rfl, rfl, rfl⟩)
    | nil =>
      cases hr : k.replyFrame with
      | some f => simp
      | none =>
        cases hn : k.notices with
        | nil => simp
        | cons n rest => exact .inr (.inr (.inr (.inl ⟨n, rest, rfl, rfl, rfl, rfl, rfl⟩)))

@[simp] theorem HostLink.pump_input (k : HostLink) : k.pump.input = k.input := by
  rcases k.pump_cases with ⟨_, h⟩ | ⟨_, _, _, _, h⟩ | ⟨_, _, _, _, h⟩ | ⟨_, _, _, _, _, _, h⟩ | ⟨_, _, _, _, h⟩ <;>
    rw [h]
@[simp] theorem HostLink.pump_rx (k : HostLink) : k.pump.rx = k.rx := by
  rcases k.pump_cases with ⟨_, h⟩ | ⟨_, _, _, _, h⟩ | ⟨_, _, _, _, h⟩ | ⟨_, _, _, _, _, _, h⟩ | ⟨_, _, _, _, h⟩ <;>
    rw [h]
@[simp] theorem HostLink.pump_enabled (k : HostLink) : k.pump.enabled = k.enabled := by
  rcases k.pump_cases with ⟨_, h⟩ | ⟨_, _, _, _, h⟩ | ⟨_, _, _, _, h⟩ | ⟨_, _, _, _, _, _, h⟩ | ⟨_, _, _, _, h⟩ <;>
    rw [h]

/-! ## The input queue -/

/-- Serving the head waiting request removes none and adds none. -/
@[simp] theorem serveHead_length (a : Reply) : ∀ l : List Request, (serveHead a l).length = l.length
  | [] => rfl
  | r :: l => by unfold serveHead; split <;> simp [serveHead_length a l]

/-- A reply that has gone takes its request out of the queue. -/
theorem dropServed_length : ∀ l : List Request, (∃ r ∈ l, r.reply.isSome) → (dropServed l).length + 1 = l.length
  | [], h => by simp at h
  | r :: l, h => by
    unfold dropServed
    split
    · rfl
    · rename_i hr
      obtain ⟨q, hq, hs⟩ := h
      rcases List.mem_cons.1 hq with rfl | hq
      · exact absurd hs hr
      · simpa using dropServed_length l ⟨q, hq, hs⟩

/-- Four requests at most stand in the input queue after a frame arrives (R168). -/
theorem HostLink.arrive_input (k : HostLink) (code tag : Nat) (body : List Byte) (h : k.input.length ≤ 4) :
    (k.arrive code tag body).input.length ≤ 4 := by
  unfold HostLink.arrive
  split
  · simp; omega
  · split <;> exact h

/-! ## Service (R169) -/

/-- What the service of a request can be: nothing when its turn has not come, an OVERRUN, or its answer. -/
theorem State.serve_cases (s : State) (c : Instr) (tag : Nat)
    (f : Hall → HostLink → Reply × Hall × HostLink × List Notice) :
    (s.link.turn (fun r => r.asks c) = .notNow ∧ s.serve c tag f = s)
      ∨ (s.link.turn (fun r => r.asks c) = .overrun ∧
          s.serve c tag f = { s with link := (s.link.arrive c.requestCode tag []).pump })
      ∨ (s.onTurn c ∧ s.serve c tag f =
          { s with hall := (f s.hall s.link).2.1,
                   link := (((f s.hall s.link).2.2.1.answer (s.link.turn fun r => r.asks c) c.requestCode tag
                     (f s.hall s.link).1).raiseAll (f s.hall s.link).2.2.2).pump }) := by
  unfold State.serve State.onTurn
  cases h : s.link.turn (fun r => r.asks c) <;> simp

/-- A request of a block of the hall, on its turn, is answered by that block. -/
theorem State.serveHall_of_turn {s : State} {c : Instr} (tag : Nat) (f : Hall → Answer) (h : s.onTurn c) :
    s.serveHall c tag f =
      { s with hall := (f s.hall).hall, link := s.linkAfter c tag (f s.hall).reply (f s.hall).out } := by
  unfold State.serveHall
  rcases s.serve_cases c tag _ with ⟨ht, _⟩ | ⟨ht, _⟩ | ⟨_, hs⟩
  · rcases h with h | h <;> rw [ht] at h <;> cases h
  · rcases h with h | h <;> rw [ht] at h <;> cases h
  · rw [hs]; rfl

/-- A request of the Host Link Interface, on its turn, is answered there. -/
theorem State.serveLink_of_turn {s : State} {c : Instr} (tag : Nat) (f : Hall → HostLink → Reply × HostLink)
    (h : s.onTurn c) :
    s.serveLink c tag f =
      { s with link := ((f s.hall s.link).2.answer (s.link.turn fun r => r.asks c) c.requestCode tag
                 (f s.hall s.link).1).pump } := by
  unfold State.serveLink
  rcases s.serve_cases c tag _ with ⟨ht, _⟩ | ⟨ht, _⟩ | ⟨_, hs⟩
  · rcases h with h | h <;> rw [ht] at h <;> cases h
  · rcases h with h | h <;> rw [ht] at h <;> cases h
  · rw [hs]; rfl

/-- A request accepted with an effect on the floor: how an answer of that form reads as the next state. -/
theorem State.answers_of {s : State} {c : Instr} {tag : Nat} {f : Hall → Answer} {r : Reply} {hall : Hall}
    {out : List Notice} (ht : s.onTurn c) (he : exec c s = .next (s.serveHall c tag f))
    (ha : f s.hall = ⟨r, hall, out⟩) : s.answers c tag r hall out := by
  unfold State.answers
  rw [he, State.serveHall_of_turn tag f ht, ha]

/-! ## The checks that begin a request -/

/-- In an accepted hall state the block goes on with the request. -/
@[simp] theorem Hall.whenIn_mem {h : Hall} {l : List HallState} (hm : h.sup.state ∈ l) (f : Answer) :
    h.whenIn l f = f := by
  unfold Hall.whenIn; simp [hm]

/-- In another it refuses NOT_ACCEPTED with the hall state. -/
theorem Hall.whenIn_not {h : Hall} {l : List HallState} (hm : h.sup.state ∉ l) (f : Answer) :
    h.whenIn l f = h.refuse .notAccepted h.sup.state.detail := by
  unfold Hall.whenIn; simp [hm]

/-- A hall command in an accepted state, with no broadcast pending, goes on. -/
theorem Hall.command_mem {h : Hall} {l : List HallState} (hb : h.fl.line.broadcastPending = false)
    (hm : h.sup.state ∈ l) (f : Hall → Answer) : h.command l f = f h := by
  unfold Hall.command; simp [hb, hm]

/-- Every field within its range: nothing is refused. -/
theorem firstBad_none {l : List Bool} : firstBad l = none ↔ ∀ b ∈ l, b = true := by
  unfold firstBad
  simp [List.findIdx?_eq_none_iff]

/-- A request whose fields are within their ranges goes on. -/
theorem Hall.checked_pass {h : Hall} {l : List Bool} (hl : ∀ b ∈ l, b = true) (a : Answer) : h.checked l a = a := by
  unfold Hall.checked; rw [firstBad_none.2 hl]

end Sys2Proof.Machine
end

