-- ==== Sys2Proof/Tests/Hall.lean ====
section
/-! SUPPORT. A small hall for the tests: one station, two cranes, one rack, the worked plate of the manual (AH36, heat
K41207, 6,000 x 2,500 at T = 160) in bay 1 and a remnant in slot 1. -/
namespace Sys2Proof.Tests
open Sys2Proof.Machine

/-- "AH36". -/
def ah36 : Text := [0x41, 0x48, 0x33, 0x36]
/-- "K41207". -/
def k41207 : Text := [0x4B, 0x34, 0x31, 0x32, 0x30, 0x37]
/-- "A1". -/
def a1 : Text := [0x41, 0x31]

def cfg : Tables :=
  { grades := [⟨3, ah36, 7850, true, 100⟩]
    runway := some ⟨100000, 5000, 90000, [10000, 20000]⟩
    limits := some ⟨2000, 3, 5, 500, 500, 200⟩
    stations := [⟨1, 1, 12000, 3000, 400, 40000, 1000, 800, 37⟩]
    cranes := [⟨1, 2, 120000, 18000, 90000, 250, 40, 4000, 0, 95000⟩, ⟨2, 3, 120000, 18000, 90000, 250, 40, 4000, 5000, 100000⟩]
    racks := [⟨1, 4, 4, 4000, 3000, 100000, 60000⟩]
    line := LineCfg.initial
    polls := [⟨1, 1, .station, 1, 0⟩, ⟨2, 2, .crane, 1, 0⟩, ⟨3, 3, .crane, 1, 0⟩, ⟨4, 4, .rack, 2, 0⟩] }

/-- The worked plate in bay 1. -/
def p77 : Plate := ⟨77, .raw, 3, 160, k41207, 6000, 2500, none, 15000000, 18840, 0, none, .bay 1 1, .free, 100⟩
/-- The worked remnant: 3,200 x 1,850 with an SE notch of 900 x 600, in slot 1. -/
def p78 : Plate :=
  ⟨78, .remnant, 3, 160, k41207, 3200, 1850, some ⟨.se, 900, 600⟩, 5380000, 6757, 1, some 77, .rack 1 1, .free, 200⟩

def node (a : Nat) (k : NodeKind) : Node := ⟨a, k, .up, 0, 0, none, false, [], 0, []⟩

def crane (n pos lo hi : Nat) : Crane :=
  { Crane.initial n with position := some pos, fresh := false, health := .normal, up := true, grant := some ⟨lo, hi⟩ }

def station : Station := { Station.initial 1 37 with up := true, sequence := some 0 }

def floor : Floor :=
  { Floor.empty with
    plates := [p77, p78], nextId := 79
    bays := [⟨1, [77], 0, none⟩, ⟨2, [], 0, none⟩]
    racks := [⟨1, true, [⟨1, some 78, .occupied, none, 0, .none, .none, false⟩, ⟨2, none, .empty, none, 0, .none, .none, false⟩,
      ⟨3, none, .unknown, none, 0, .none, .none, false⟩, ⟨4, none, .occupied, none, 0, .unexpectedObject, .none, false⟩]⟩]
    stations := [station]
    cranes := [crane 1 20000 16000 24000, crane 2 80000 76000 84000]
    counters := Table.put Counter.id ⟨1, some 4, some 12, some 11, false, none⟩ Floor.empty.counters
    line := { Line.silent with nodes := [node 1 .station, node 2 .crane, node 3 .crane, node 4 .rack] } }

def hallIn (st : HallState) (fl : Floor) : Hall := ⟨cfg, [], ⟨st, none, none, false, none, 5000, false⟩, fl⟩

/-- The part with the hall in a state and a floor, nothing waiting. -/
def stateIn (st : HallState) (fl : Floor) : State := ⟨hallIn st fl, HostLink.initial false, []⟩

/-- The hall of the tests in SETUP, in READY and in RUN. -/
def setup : State := stateIn .setup { Floor.empty with
  bays := [⟨1, [], 0, none⟩, ⟨2, [], 0, none⟩], racks := [Rack.initial 1 4], stations := [Station.initial 1 37]
  cranes := [Crane.initial 1, Crane.initial 2] }
def ready : State := stateIn .ready { floor with cranes := floor.cranes.map fun k => { k with grant := none } }
def run : State := stateIn .run floor

/-- A job on station 1 for the plate 77, of one part of 2,000,000 mm² with 3 pierces. -/
def job (st : JobState) : Job :=
  { id := 500, station := 1, plate := 77, area := 15000000, thickness := 160, grade := 3, mass := 18840, nest := 9,
    policy := .stop, expedite := false, timer := ⟨37, 222000, .running⟩,
    entries := [⟨.part, a1, 0, 2000000, 3, .pending⟩], remnant := none, state := st, stagingTag := none,
    cancelPending := false, firstFailure := none, closeOut := none, admittedAt := 300 }

/-- A host move of the remnant to the scrap point. -/
def move (st : MoveState) : Move :=
  { tag := 5, origin := .host, kind := .remnantScrap, load := .plate 78, pickup := some (.slot 1 1), drop := .scrap,
    expedite := false, wait := ⟨1, 6000, .running⟩, submitted := 400, crane := none, state := st, causedYield := none,
    waitingFor := none, expired := false }

/-- The state after a command; the state itself where there is none. -/
def after (c : Instr) (s : State) : State :=
  match exec c s with
  | .next t => t
  | _ => s

/-- The reply of the request served last. -/
def replied (s : State) : Option Reply := s.link.input.getLast?.bind Request.reply

/-- The reply that a command is given. -/
def replyTo (c : Instr) (s : State) : Option Reply := replied (after c s)

end Sys2Proof.Tests
end

