-- ==== Sys2Proof/Tests/Slice0.lean ====
section
/-! SUPPORT. The WellFormed smoke tests, the manual's worked figures, and small tests of the commands on the hall of
Sys2Proof/Tests/Hall.lean. Every expected value is the manual's, or computed by hand from its rules; the rule stands before
each test. -/
namespace Sys2Proof.Tests
-- One theorem at a time: many that wait for the kernel at once would need a thread each.
set_option Elab.async false
open Sys2Proof.Machine

/-! ## WellFormed: an ill-formed term for each check, which the check refuses -/

theorem test_wellFormed_tag_zero : (Instr.start 0).wellFormed = false := by decide
theorem test_wellFormed_tag_wide : (Instr.start 256).wellFormed = false := by decide
theorem test_wellFormed_one_byte : (Instr.readRack 1 256).wellFormed = false := by decide
theorem test_wellFormed_two_bytes : (Instr.readPlate 1 65536).wellFormed = false := by decide
theorem test_wellFormed_four_bytes : (Instr.setCounter 1 1 1 4294967296).wellFormed = false := by decide
theorem test_wellFormed_text : (Instr.setGrade 1 0 (List.replicate 256 0x41) 7850 0 100).wellFormed = false := by
  decide +kernel
theorem test_wellFormed_list : (Instr.setNotices 1 (List.replicate 256 0x80) []).wellFormed = false := by decide +kernel
theorem test_wellFormed_list_item : (Instr.setNotices 1 [] [256]).wellFormed = false := by decide
theorem test_wellFormed_body : (Instr.unknownRequest 0x70 1 (List.replicate 1023 0)).wellFormed = false := by
  decide +kernel
theorem test_wellFormed_no_characters : (Instr.reportReceived []).wellFormed = false := by decide
theorem test_wellFormed_no_host_characters : (Instr.hostFrameReceived []).wellFormed = false := by decide
theorem test_wellFormed_field_count : (Instr.defineTemplate 1 1 2 [⟨1, [], 0⟩]).wellFormed = false := by decide
theorem test_wellFormed_literal_only : (Instr.defineTemplate 1 1 1 [⟨1, [0x41], 0⟩]).wellFormed = false := by decide
theorem test_wellFormed_serial_only : (Instr.defineTemplate 1 1 1 [⟨1, [], 3⟩]).wellFormed = false := by decide
theorem test_wellFormed_entry_count :
    (Instr.admitJob 1 500 1 77 9 0 0 37 2 0 0 0 0 0 0 [⟨0, a1, 0, 2000000, 3⟩]).wellFormed = false := by decide
theorem test_wellFormed_entry :
    (Instr.admitJob 1 500 1 77 9 0 0 37 1 0 0 0 0 0 0 [⟨0, a1, 256, 2000000, 3⟩]).wellFormed = false := by decide
theorem test_wellFormed_action : (Instr.acceptObject 1 1 1 2).wellFormed = false := by decide
theorem test_wellFormed_expiry : (Instr.parkTimerExpired 256).wellFormed = false := by decide
theorem test_wellFormed_accepts :
    (Instr.admitJob 1 500 1 77 9 0 0 37 1 0 0 0 0 0 0 [⟨0, a1, 0, 2000000, 3⟩]).wellFormed = true := by decide

/-! ## Worked figures of chapter 1 -/

/-- R12, R13: the worked plate and the worked remnant. -/
theorem test_mass_of_the_worked_plate :
    areaOf 6000 2500 none = 15000000 ∧ massOf 15000000 160 7850 = 18840 := by decide
theorem test_mass_of_the_worked_remnant :
    areaOf 3200 1850 (some ⟨.se, 900, 600⟩) = 5380000 ∧ massOf 5380000 160 7850 = 6757 := by decide
/-- Section 11.2: the declared remnant of job 160, 2,763, and its skeleton, 2,110. -/
theorem test_masses_of_job_160 : massOf 2200000 160 7850 = 2763 ∧ massOf 1680000 160 7850 = 2110 := by decide
/-- R13: the worked magnet at the worked plate's thickness, and the least one of two. -/
theorem test_magnet :
    kmag ⟨1, 2, 120000, 18000, 90000, 250, 40, 4000, 0, 0⟩ 160 100 = 57600
      ∧ allowance ⟨1, 2, 120000, 18000, 90000, 250, 40, 4000, 0, 0⟩ 160 100 = 57600 := by decide
/-- Section 11.2, step 7: a tolerance of max(500, 337), and a difference of 3 passes. -/
theorem test_load_cell_passes : tolerance 500 5 6757 = 500 ∧ loadCell 6760 57600 6757 500 = none := by decide
/-- R15: the overload is tested first; a difference above the tolerance is a mismatch. -/
theorem test_load_cell_fails :
    loadCell 57610 57600 6757 500 = some .overload ∧ loadCell 7260 57600 6757 500 = some .loadMismatch
      ∧ loadCell 7257 57600 6757 500 = none := by decide
/-- Section 11.2, steps 13 and 14. -/
theorem test_wear_of_job_160 : wearAfter 400 160 3 150 = 574 ∧ wearAfter 574 160 1 20 = 602 := by decide
/-- R19. -/
theorem test_durations : durationMs 37 = 222000 ∧ durationMs 101 = 660000 ∧ durationMs 255 = 105600000 := by decide
/-- R74: T as a decimal with one place. -/
theorem test_thick_text :
    thickText 30 = [0x33, 0x2E, 0x30] ∧ thickText 95 = [0x39, 0x2E, 0x35]
      ∧ thickText 1500 = [0x31, 0x35, 0x30, 0x2E, 0x30] := by decide
/-- Section 11.2, step 11: "K41207/00160-100000216.0" from HEAT, "/", JOB, "-", SERIAL(2), THICK. -/
theorem test_mark_text_of_job_160 :
    (renderFields ⟨.run, 0, cfg, []⟩ ⟨160, a1, k41207, ah36, 160, 2⟩ ⟨2, 160, 3⟩
        [.heat, .literal [0x2F], .job, .literal [0x2D], .serial 2, .thick]
        ⟨{ Floor.empty with counters := [⟨2, some 7, some 1000002, some 1000001, false, none⟩] }, [], false, false, false, false⟩).1
      = (k41207 ++ [0x2F, 0x30, 0x30, 0x31, 0x36, 0x30, 0x2D, 0x31, 0x30, 0x30, 0x30, 0x30, 0x30, 0x32, 0x31, 0x36, 0x2E,
          0x30], [(2, 1000002)]) := by decide
/-- R70: the draw of the all-nines value exhausts the counter (section 11.4, step 2). -/
theorem test_all_nines_exhausts :
    Counter.draw ⟨3, 8, 1⟩ ⟨5, some 2, some 99, some 98, false, none⟩
      = ⟨5, some 2, some 99, some 99, true, some ⟨3, 8, 1⟩⟩ := by decide

/-! ## Formats -/

/-- The CRC of section 10.1 over the digits 1 to 9. -/
theorem test_crc : crc16 [0x31, 0x32, 0x33, 0x34, 0x35, 0x36, 0x37, 0x38, 0x39] = 0x29B1 := by decide +kernel

/-- R175, section 10.2: one body for each family of requests, written out from its form. -/
theorem test_decode_setGrade :
    decodeRequest 0x01 7 [3, 4, 0x41, 0x48, 0x33, 0x36, 0x1E, 0xAA, 1, 100] = .ok (.setGrade 7 3 ah36 7850 1 100) := by
  rfl
theorem test_decode_hall_command : decodeRequest 0x10 7 [3] = .ok (.hold 7) := by rfl
theorem test_decode_registerPlate :
    decodeRequest 0x20 7 [1, 3, 0, 160, 6, 0x4B, 0x34, 0x31, 0x32, 0x30, 0x37, 0x17, 0x70, 0x09, 0xC4, 0, 0, 0, 0, 0]
      = .ok (.registerPlate 7 1 3 160 k41207 6000 2500 0 0 0) := by rfl
theorem test_decode_recheck : decodeRequest 0x29 7 [2, 3, 2] = .ok (.recheck 7 2 3) := by rfl
theorem test_decode_stationHold : decodeRequest 0x30 7 [2] = .ok (.stationHold 7 2) := by rfl
theorem test_decode_defineTemplate :
    decodeRequest 0x38 7 [4, 3, 3, 0, 1, 0x2F, 6, 2]
      = .ok (.defineTemplate 7 4 3 [⟨3, [], 0⟩, ⟨0, [0x2F], 0⟩, ⟨6, [], 2⟩]) := by rfl
theorem test_decode_admitJob :
    decodeRequest 0x40 7 [0, 160, 2, 0, 131, 0, 9, 1, 0, 37, 1, 0, 0, 0, 0, 0, 0, 0, 0, 0, 0, 0, 2, 0x41, 0x31, 4, 0, 0x0D,
        0xBB, 0xA0, 3]
      = .ok (.admitJob 7 160 2 131 9 1 0 37 1 0 0 0 0 0 0 [⟨0, a1, 4, 900000, 3⟩]) := by rfl
theorem test_decode_submitMove :
    decodeRequest 0x50 7 [5, 4, 0, 78, 4, 0, 0, 0, 1] = .ok (.submitMove 7 5 4 78 4 0 0 0 1) := by rfl
theorem test_decode_readNode : decodeRequest 0x60 7 [30] = .ok (.readNode 7 30) := by rfl

/-- R169, R175: an unknown code, a tag of 0, a body too short, a body too long, an undefined command value. -/
theorem test_decode_faults :
    decodeRequest 0x70 7 [] = .error (.unknownCode 0x70) ∧ decodeRequest 0x21 0 [0, 77] = .error .zeroTag
      ∧ decodeRequest 0x21 7 [0] = .error (.malformed 1) ∧ decodeRequest 0x21 7 [0, 77, 9] = .error (.malformed 2)
      ∧ decodeRequest 0x10 7 [9] = .error .undefinedCommand := by
  exact ⟨rfl, rfl, rfl, rfl, rfl⟩

/-! ## Commands: the pins and the host link -/

/-- R149, R150, R3: the values the manual gives after reset. -/
theorem test_reset :
    (after (.reset true false) run).hall.sup = ⟨.setup, none, none, false, none, 0, false⟩
      ∧ (after (.reset true false) run).hall.fl.nextId = 1 ∧ (after (.reset true false) run).link.rateHigh = true := by
  decide +kernel
/-- R159: with the STOP input held asserted at reset the hall is FROZEN from SETUP. -/
theorem test_reset_held :
    (after (.reset false true) run).hall.sup = ⟨.frozen, some .setup, some .stopInput, true, some 0, 0, true⟩ := by
  decide +kernel
/-- R159: the capture is the clock, 5,000. -/
theorem test_stopAsserted :
    (after .stopAsserted run).hall.sup = ⟨.frozen, some .run, some .stopInput, true, some 5000, 5000, true⟩ := by
  decide +kernel
theorem test_stopReleased :
    (after .stopReleased (after .stopAsserted run)).hall.sup
      = ⟨.frozen, some .run, some .stopInput, false, some 5000, 5000, true⟩ := by decide +kernel
/-- R166: the frame of READ_PLATE 77 under tag 9: A7, length 4, code, tag, body, CRC. -/
theorem test_hostFrameReceived :
    (after (.hostFrameReceived (([0xA7, 0, 4, 0x21, 9, 0, 77] ++ encCrc (crc16 [0, 4, 0x21, 9, 0, 77])).map
        fun b => ⟨b, true⟩)) run).link.input = [⟨0x21, 9, [0, 77], none⟩] := by decide +kernel
/-- R167: a wrong CRC discards the frame and counts it. -/
theorem test_hostFrameDiscarded :
    (after (.hostFrameDiscarded ([0xA7, 0, 2, 0x53, 9, 0, 0].map fun b => ⟨b, true⟩)) run).link.discarded = 1 := by
  decide +kernel
theorem test_hostByteGapTimeout :
    (after .hostByteGapTimeout { run with link := { run.link with rx := [0xA7, 0] } }).link.discarded = 1
      ∧ (after .hostByteGapTimeout { run with link := { run.link with rx := [0xA7, 0] } }).link.rx = [] := by
  decide +kernel
/-- R170: once its reply has gone the request leaves the input queue. -/
theorem test_hostFrameSent :
    (after .hostFrameSent (after (.readCounter 9 1) run)).link.input = []
      ∧ (after .hostFrameSent (after (.readCounter 9 1) run)).link.tx = none := by decide +kernel
/-- R169: the detail is the code. -/
theorem test_unknownRequest :
    replyTo (.unknownRequest 0x70 9 []) run = some (.refused .badFormat (.messageCode 0x70)) := by decide +kernel

/-! ## Commands: configuration -/

theorem test_setGrade :
    (after (.setGrade 9 4 [0x44] 8000 0 50) setup).hall.cfg.grades = [⟨3, ah36, 7850, true, 100⟩, ⟨4, [0x44], 8000, false, 50⟩]
    := by decide +kernel
theorem test_setGrade_duplicate : replyTo (.setGrade 9 4 ah36 8000 0 50) setup = some (.refused .duplicate (.grade 3)) := by
  decide +kernel
theorem test_setRunway :
    (after (.setRunway 9 50000 2000 40000 1 [7000]) setup).hall.cfg.runway = some ⟨50000, 2000, 40000, [7000]⟩
      ∧ (after (.setRunway 9 50000 2000 40000 1 [7000]) setup).hall.fl.bays = [⟨1, [], 0, none⟩] := by decide +kernel
theorem test_setRunway_range : replyTo (.setRunway 9 19999 2000 0 1 [0]) setup = some (.refused .outOfRange (.field 1)) := by
  decide +kernel
/-- R153: absmin 5 kg is 50 mass units. -/
theorem test_setLimits :
    (after (.setLimits 9 100 0 1 5 200 1) setup).hall.cfg.limits = some ⟨100, 0, 1, 50, 200, 1⟩ := by decide +kernel
theorem test_setStation :
    (after (.setStation 9 1 0 200 200 30 0 100 100 0) setup).hall.cfg.stations = [] := by decide +kernel
theorem test_setStation_range :
    replyTo (.setStation 9 1 5 200 200 30 0 100 101 0) setup = some (.refused .outOfRange (.field 8)) := by decide +kernel
/-- R102: SWL 12,000 kg is 120,000 mass units. -/
theorem test_setCrane :
    (after (.setCrane 9 2 3 12000 1800 9000 250 40 4000 5000 100000) setup).hall.cfg = setup.hall.cfg := by decide +kernel
theorem test_setRack_full :
    replyTo (.setRack 9 2 5 16 4000 3000 10000 0)
        { setup with hall := { setup.hall with cfg := { setup.hall.cfg with
            racks := [⟨1, 4, 16, 0, 0, 0, 0⟩, ⟨3, 5, 16, 0, 0, 0, 0⟩, ⟨4, 6, 17, 0, 0, 0, 0⟩] } } }
      = some (.refused .full (.number 65)) := by decide +kernel
theorem test_setRack :
    (after (.setRack 9 1 4 0 4000 3000 10000 0) setup).hall.fl.racks = [] := by decide +kernel
theorem test_setLine : (after (.setLine 9 1 20 15 100) setup).hall.cfg.line = ⟨.mbit1, 20, 15, 100⟩ := by decide +kernel
theorem test_setPoll :
    (after (.setPoll 9 4 0 3 1 0) setup).hall.cfg.polls
      = [⟨1, 1, .station, 1, 0⟩, ⟨2, 2, .crane, 1, 0⟩, ⟨3, 3, .crane, 1, 0⟩] := by decide +kernel
theorem test_setPoll_base : replyTo (.setPoll 9 4 4 3 2 2) setup = some (.refused .outOfRange (.field 5)) := by decide +kernel

/-! ## Commands: the hall -/

theorem test_commitSetup :
    (after (.commitSetup 9) setup).hall.sup.state = .ready
      ∧ (after (.commitSetup 9) setup).hall.fl.line.nodes.map Node.address = [1, 2, 3, 4]
      ∧ (after (.commitSetup 9) setup).hall.sup.alert = true := by decide +kernel
/-- R156, R116: 20,000 and 80,000 widened by 4,000. -/
theorem test_start :
    (after (.start 9) ready).hall.fl.cranes.map Crane.grant = [some ⟨16000, 24000⟩, some ⟨76000, 84000⟩]
      ∧ (after (.start 9) ready).hall.sup.state = .run := by decide +kernel
theorem test_start_in_setup :
    replyTo (.start 9) setup = some (.refused .notAccepted (.enumerated 1 0)) := by decide +kernel
theorem test_hold : replyTo (.hold 9) run = some (.accepted [4]) := by decide +kernel
theorem test_resume : replyTo (.resume 9) (after (.hold 8) run) = some (.accepted [2]) := by decide +kernel
theorem test_freeze :
    (after (.freeze 9) run).hall.sup.cause = some .command ∧ (after (.freeze 9) run).hall.sup.capture = none := by
  decide +kernel
/-- R160: a freeze from RUN returns to HELD. -/
theorem test_clearFreeze :
    replyTo (.clearFreeze 9) { stateIn .frozen floor with
      hall := { hallIn .frozen floor with sup := ⟨.frozen, some .run, some .command, false, none, 5000, true⟩ } }
      = some (.accepted [4]) := by decide +kernel
/-- R151: the freeze has a broadcast pending. -/
theorem test_clearFreeze_busy : replyTo (.clearFreeze 9) (after .stopAsserted run) = some (.refused .busy .none) := by
  decide +kernel
theorem test_reconfigure : replyTo (.reconfigure 9) ready = some (.refused .inUse (.plate 77)) := by decide +kernel
theorem test_clearRegister : replyTo (.clearRegister 9) setup = some (.accepted [0, 0, 0, 0, 0, 1]) := by decide +kernel
/-- R174: the part's number and the link rate. -/
theorem test_identify :
    (replyTo (.identify 9) run).map (fun r => match r with | .accepted b => b.take 7 | .refused _ _ => [])
      = some [6, 0x4E, 0x49, 0x4E, 0x50, 0x41, 0x52] := by decide +kernel
/-- R173: what is reported is cleared. -/
theorem test_getStatus :
    (after (.getStatus 9) { run with link := { run.link with discarded := 3 } }).link.discarded = 0 := by decide +kernel
/-- R164: the first byte is the hall state. -/
theorem test_readHall :
    (replyTo (.readHall 9) run).map (fun r => match r with | .accepted b => b.take 1 | .refused _ _ => []) = some [2] := by
  decide +kernel
/-- R172: bit 0 is the HALL kind; a kind in both lists is refused. -/
theorem test_setNotices : replyTo (.setNotices 9 [] [0x80]) run = some (.accepted [0x03, 0xFE]) := by decide +kernel
theorem test_setNotices_both :
    replyTo (.setNotices 9 [0x81] [0x81]) run = some (.refused .outOfRange (.number 0x81)) := by decide +kernel

/-! ## Commands: plates and stock -/

/-- R7: id 79, level 2, A 15,000,000 and M 18,840. -/
theorem test_registerPlate :
    replyTo (.registerPlate 9 1 3 160 k41207 6000 2500 0 0 0) run
      = some (.accepted [0, 79, 2, 0, 0xE4, 0xE1, 0xC0, 0, 0, 0x49, 0x98]) := by decide +kernel
theorem test_registerPlate_grade :
    replyTo (.registerPlate 9 1 4 160 k41207 6000 2500 0 0 0) run = some (.refused .unknownItem (.grade 4)) := by
  decide +kernel
theorem test_readPlate : replyTo (.readPlate 9 80) run = some (.refused .unknownItem .none) := by decide +kernel
theorem test_releasePlate : replyTo (.releasePlate 9 77) run = some (.accepted []) := by decide +kernel
theorem test_removePlate : (after (.removePlate 9 77) run).hall.fl.plates = [p78] := by decide +kernel
/-- R10: a plate in a rack slot is not removed so. -/
theorem test_removePlate_rack : replyTo (.removePlate 9 78) run = some (.refused .wrongLocation .none) := by decide +kernel
/-- R32: slot 3 is UNKNOWN, so its record awaits a decision; slot 2 is sensed EMPTY. -/
theorem test_placeRemnant :
    (after (.placeRemnant 9 1 3 3 160 k41207 1000 1000 0 0 0) run).hall.fl.slot? 1 3
      = some ⟨3, some 79, .unknown, none, 0, .none, .verifyIn, false⟩ := by decide +kernel
theorem test_placeRemnant_empty :
    replyTo (.placeRemnant 9 1 2 3 160 k41207 1000 1000 0 0 0) run = some (.refused .sensedEmpty .none) := by decide +kernel
theorem test_acceptEmpty :
    replyTo (.acceptEmpty 9 1 4) run = some (.refused .notAccepted (.enumerated 7 2)) := by decide +kernel
theorem test_recheck :
    ((after (.recheck 9 1 2) run).hall.fl.slot? 1 2).map Slot.recheck = some true := by decide +kernel
theorem test_acceptObject :
    replyTo (.acceptObject 9 1 4 3) run = some (.refused .notAccepted (.enumerated 0 3)) := by decide +kernel
theorem test_readRack : replyTo (.readRack 9 2) run = some (.refused .unknownItem .none) := by decide +kernel
/-- R37, R38: the remnant 78 takes 3,200 x 1,200 to the north of its SE notch. -/
theorem test_findStock :
    run.hall.fl.findStock cfg 3 160 3200 1200 false 4 = [(p78, (false, .northSide))] := by decide +kernel
theorem test_findStock_none : replyTo (.findStock 9 3 160 3201 1200 0 4) run = some (.accepted [0]) := by decide +kernel

/-! ## Commands: stations, templates and counters -/

theorem test_stationHold :
    ((after (.stationHold 9 1) run).hall.fl.station? 1).map (fun st => st.hold.host) = some true := by decide +kernel
theorem test_stationResume : replyTo (.stationResume 9 1) (after (.stationHold 8 1) run) = some (.accepted [0]) := by
  decide +kernel
theorem test_consumablesChanged :
    ((after (.consumablesChanged 9 1) { run with hall := hallIn .run { floor with stations := [{ station with wear := 900 }] } }).hall.fl.station?
      1).map Station.wear = some 0 := by decide +kernel
theorem test_readStation : replyTo (.readStation 9 2) run = some (.refused .unknownItem .none) := by decide +kernel
/-- R65: 5 for JOB and 4 for SERIAL(1), whose width is 4. -/
theorem test_defineTemplate :
    replyTo (.defineTemplate 9 2 2 [⟨1, [], 0⟩, ⟨6, [], 1⟩]) run = some (.accepted [2, 9]) := by decide +kernel
theorem test_defineTemplate_twice :
    replyTo (.defineTemplate 9 2 2 [⟨6, [], 1⟩, ⟨6, [], 1⟩]) run = some (.refused .duplicate (.field 4)) := by decide +kernel
/-- R66, section 10.1: an undefined template has the list count 0 and the width 0, and no referrer. -/
theorem test_readTemplate_undefined : replyTo (.readTemplate 9 16) run = some (.accepted [0, 0, 0, 0, 0, 0]) := by
  decide +kernel
theorem test_readTemplate : replyTo (.readTemplate 9 17) run = some (.refused .outOfRange (.field 1)) := by decide +kernel
/-- R71: 11 was the last value issued. -/
theorem test_setCounter : replyTo (.setCounter 9 1 4 11) run = some (.refused .counterBackwards (.number 11)) := by
  decide +kernel
theorem test_setCounter_sets :
    (after (.setCounter 9 1 3 200) run).hall.fl.counter? 1 = some ⟨1, some 3, some 200, some 11, false, none⟩ := by
  decide +kernel
theorem test_readCounter : replyTo (.readCounter 9 0) run = some (.refused .outOfRange (.field 1)) := by decide +kernel

/-! ## Commands: jobs, moves and cranes -/

/-- The admission of a job for a plate in bay 1, at station 1, with no remnant. -/
def admission (plate area : Nat) : Instr := .admitJob 9 500 1 plate 9 0 0 37 1 0 0 0 0 0 0 [⟨0, a1, 0, area, 3⟩]

/-- R83, R84: with the station VACANT the queue is examined at once and the job is staged under tag 16. -/
theorem test_admitJob :
    (after (admission 77 2000000) run).hall.fl.jobs.map (fun j => (j.id, j.state, j.stagingTag)) = [(500, .staging, some 16)] := by
  decide +kernel
/-- R80, check 9. -/
theorem test_admitJob_area :
    replyTo (admission 77 15000001) run = some (.refused .areaExceedsPlate (.number 15000001)) := by decide +kernel

/-- The hall in RUN with the job 500 present. -/
def withJob (st : JobState) : State := stateIn .run { floor with
  plates := [{ p77 with hold := .reserved 500 }, p78], jobs := [job st] }
/-- The hall in RUN with the host move 5 present. -/
def withMove : State := stateIn .run { floor with moves := [move .waiting] }

theorem test_readJob : replyTo (.readJob 9 501) run = some (.refused .unknownItem .none) := by decide +kernel
/-- R82: the job's id and its state, QUEUED. -/
theorem test_readQueue : replyTo (.readQueue 9 1) (withJob .queued) = some (.accepted [1, 1, 0xF4, 0]) := by decide +kernel
theorem test_cancelJob :
    (after (.cancelJob 9 500) (withJob .queued)).hall.fl.jobs = []
      ∧ (after (.cancelJob 9 500) (withJob .queued)).hall.fl.plates = [p77, p78] := by decide +kernel
theorem test_scrapRemnant : replyTo (.scrapRemnant 9 1) run = some (.refused .notAccepted (.enumerated 15 255)) := by
  decide +kernel
theorem test_skeletonManual : replyTo (.skeletonManual 9 2) run = some (.refused .unknownItem .none) := by decide +kernel
/-- R114 to R117: the only crane free and nearest is bound, and its needed extent is granted. -/
theorem test_submitMove :
    (after (.submitMove 9 5 4 78 4 0 0 0 1) run).hall.fl.moves.map (fun m => (m.tag, m.state))
      = [(5, .phase .toPickup)] := by decide +kernel
theorem test_submitMove_tag : replyTo (.submitMove 9 5 4 78 4 0 0 0 1) withMove = some (.refused .tagInUse .none) := by
  decide +kernel
theorem test_cancelMove : (after (.cancelMove 9 5) withMove).hall.fl.moves = [] := by decide +kernel
theorem test_readMove : replyTo (.readMove 9 6) withMove = some (.refused .unknownItem .none) := by decide +kernel
/-- R112: tag, kind REMNANT_SCRAP, WAITING, no crane. -/
theorem test_readMoves : replyTo (.readMoves 9) withMove = some (.accepted [1, 5, 4, 0, 0]) := by decide +kernel
theorem test_readCrane : replyTo (.readCrane 9 3) run = some (.refused .unknownItem .none) := by decide +kernel
/-- R130: a NORMAL crane needs no restoring. -/
theorem test_restoreCrane : replyTo (.restoreCrane 9 1) run = some (.refused .notAccepted (.enumerated 21 1)) := by
  decide +kernel
/-- R130: the suspended move resumes with its MOVE notice, and the CRANE notice follows. -/
theorem test_restoreCrane_resumes_first :
    ((after (.restoreCrane 9 1) (stateIn .run { floor with
        cranes := [{ crane 1 20000 16000 94000 with health := .degraded, bound := some 5, activity := .moving }, crane 2 99000 99000 99500]
        moves := [{ move (.suspended .toPickup { degraded := true }) with crane := some 1 }] })).link.notices.map
          fun n => n.body.kind) = [.move, .crane] := by decide +kernel
theorem test_runwayResume :
    (after (.runwayResume 9) (stateIn .run { floor with runwayStopped := true })).hall.fl.runwayStopped = false := by
  decide +kernel
theorem test_readNode : replyTo (.readNode 9 5) run = some (.refused .unknownItem .none) := by decide +kernel

/-! ## Events: timers and the hall line -/

/-- R40: the job lapses and its plate is FREE. -/
theorem test_reservationExpired :
    (after (.reservationExpired 500) (withJob .queued)).hall.fl.jobs = []
      ∧ (after (.reservationExpired 500) (withJob .queued)).hall.fl.plates = [p77, p78] := by decide +kernel
/-- R56: the PARK order enters the node's queue under number 1. -/
theorem test_parkTimerExpired :
    (((after (.parkTimerExpired 1) (stateIn .run { floor with
        stations := [{ station with park := ⟨37, 1, .running⟩ }]
        line := { floor.line with nodes := [{ node 1 .station with lastTaken := 0 }] } })).hall.fl.node? 1).map
          Node.orders).getD [] = [⟨.park, 1, false⟩] := by decide +kernel
theorem test_moveWaitExpired : (after (.moveWaitExpired 5) withMove).hall.fl.moves = [] := by decide +kernel

/-- The hall in RUN with its line in a given condition. -/
def withLine (f : Line → Line) : State := stateIn .run { floor with line := f floor.line }
/-- The node at address 1 is visited and its report awaited. -/
def awaiting : State := withLine fun l => { l with due := [2], visit := some ⟨1, false, [], true⟩ }

/-- R138: the round is 1 and the entries with repetition 1 are due, the first of them visited. -/
theorem test_roundGapExpired :
    (after .roundGapExpired (withLine fun l => { l with gap := true })).hall.fl.line.due = [2, 3]
      ∧ (after .roundGapExpired (withLine fun l => { l with gap := true })).hall.fl.line.round = 1 := by decide +kernel
theorem test_lineFrameSent :
    (after .lineFrameSent (withLine fun l => { l with visit := some ⟨1, false, [], false⟩ })).hall.fl.line.visit
      = some ⟨1, false, [], true⟩ := by decide +kernel
/-- R146: a miss. -/
theorem test_replyWindowExpired :
    ((after .replyWindowExpired awaiting).hall.fl.node? 1).map Node.miss = some 1 := by decide +kernel
/-- R145: a crane's report at a station's address makes the node WRONG_KIND. -/
theorem test_reportReceived :
    ((after (.reportReceived (lineChars ([22, 1, 2, 0] ++ List.replicate 18 0
        ++ encCrc (crc16 ([22, 1, 2, 0] ++ List.replicate 18 0))))) awaiting).hall.fl.node? 1).map Node.health
      = some .wrongKind := by decide +kernel
/-- R108: the plate of a waiting REMNANT_SCRAP is ready as a pickup also once a job has reserved it; a QUARANTINED one for no
other kind, a MISSING one never. -/
theorem test_pickupReady_held :
    let ready := fun (h : Hold) (k : MoveKind) =>
      Floor.pickupReady { floor with plates := [{ p78 with hold := h }] } { move .waiting with kind := k }
    ready (.reserved 500) .remnantScrap = true ∧ ready .quarantined .remnantScrap = true
      ∧ ready .quarantined .rackTransfer = false ∧ ready .missing .remnantScrap = false := by decide +kernel
/-- R104, R129: a NODE_FAULT event keeps an OFFLINE crane from becoming NORMAL; it becomes FAULTED. -/
theorem test_craneReport_fault_event :
    let x : Ctx := run.hall.ctx
    let k : Crane := { crane 1 20000 16000 24000 with health := .offline, grant := none, position := none }
    let w : Work := .begin { floor with cranes := [k, crane 2 80000 76000 84000] }
    let w := w.craneReport x 1 ⟨20000, .idle, none, 0, false, none⟩ (some (.fault 7))
    (w.fl.crane? 1).map Crane.health = some .faulted ∧ w.out.length = 1 := by decide +kernel
/-- R105, R129, R180: a crane report with an event and a fault has the event taken, then the move suspended by the fault. -/
theorem test_craneReport_event_and_fault :
    let x : Ctx := run.hall.ctx
    let m : Move := { move (.phase .toPickup) with crane := some 1 }
    let k : Crane := { crane 1 20000 16000 24000 with bound := some 5 }
    let w : Work := .begin { floor with moves := [m], cranes := [k, crane 2 80000 76000 84000] }
    let w := w.craneReport x 1 ⟨20000, .atPickup, some 5, 0, false, some 7⟩ (some (.moved .atPickup 5 0))
    (w.fl.move? 5).map Move.state = some (.suspended .liftCheck { faulted := true })
      ∧ (w.fl.crane? 1).map Crane.health = some .faulted := by decide +kernel
/-- R47, R56: the outbox after a job ended uncut while its program and a PARK waited, and a new start: the new program and
the entry. -/
theorem test_outbox_after_a_new_start :
    ((({ station with outbox := [.loadProgram 7, .park], parked := true } : Station).produce (.loadProgram 8)).orderEntry
      (.burn 1 2 160)).outbox = [.loadProgram 8, .burn 1 2 160] := by decide +kernel
theorem test_stopAllSent :
    (after .stopAllSent (withLine fun l => { l with broadcast := .sending, broadcastPending := true })).hall.fl.line.broadcast
      = .window := by decide +kernel
/-- R133, R134, R147: STOP_ALL on the line, the address character 31 first, with the driver enabled; nothing while idle. -/
theorem test_stopAll_on_the_line :
    let l : Line := { floor.line with broadcast := .sending }
    (l.driven.map LineChar.data).take 4 = [31, 3, 0x80, 0x7F] ∧ (l.driven.map LineChar.address) = [true, false, false, false, false, false]
      ∧ l.driverEnabled = true ∧ floor.line.driverEnabled = false := by decide +kernel
theorem test_broadcastWindowExpired :
    (after .broadcastWindowExpired (withLine fun l => { l with broadcast := .window, gap := true })).hall.fl.line.broadcast
      = .none := by decide +kernel

/-- R150: the clock wraps. -/
theorem test_idle :
    (match step { run with hall := { run.hall with sup := { run.hall.sup with clock := 4294967295 } } } with
      | .next t => t.hall.sup.clock
      | _ => 1) = 0 := by decide +kernel

end Sys2Proof.Tests
end

