-- ==== Sys2Proof/Tests/Witnesses.lean ====
section
/-! SUPPORT. For every obligation with hypotheses, concrete states and operands that meet them: one theorem for each clause, or
one for clauses that share what they ask. -/
namespace Sys2Proof.Tests
-- One theorem at a time: many that wait for the kernel at once would need a thread each.
set_option Elab.async false
open Sys2Proof.Machine

/-! ## States -/

/-- With no request present every request is served at once. -/
theorem turn (st : HallState) (fl : Floor) (c : Instr) : (stateIn st fl).onTurn c := Or.inr rfl

def held : State := stateIn .held floor
def holding : State := stateIn .holding { floor with moves := [{ move (.phase .toPickup) with crane := some 1 }] }
/-- The hall FROZEN from a state, by a command, or with the STOP input held. -/
def frozenFrom (q : HallState) (stop : Bool) (fl : Floor) : State :=
  { hall := { hallIn .frozen fl with
      sup := ⟨.frozen, some q, some (if stop then .stopInput else .command), stop, if stop then some 4000 else none, 5000, true⟩ }
    link := HostLink.initial false, pending := [] }

theorem frozen_turn (q : HallState) (stop : Bool) (fl : Floor) (c : Instr) : (frozenFrom q stop fl).onTurn c := Or.inr rfl

/-- A link of the test hall in a given condition. -/
def withLink (f : HostLink → HostLink) : State := { run with link := f run.link }
def served (tag : Nat) : Request := ⟨0x53, tag, [], some (.accepted [0])⟩
def waiting (tag : Nat) : Request := ⟨0x53, tag, [], none⟩

theorem run_keyed : run.hall.keyed := by unfold Hall.keyed Tables.keyed Floor.keyed; decide +kernel
theorem setup_keyed : setup.hall.keyed := by unfold Hall.keyed Tables.keyed Floor.keyed; decide +kernel
theorem held_keyed : held.hall.keyed := by unfold Hall.keyed Tables.keyed Floor.keyed; decide +kernel
theorem ready_keyed : ready.hall.keyed := by unfold Hall.keyed Tables.keyed Floor.keyed; decide +kernel
theorem frozen_keyed (q : HallState) (b : Bool) : (frozenFrom q b floor).hall.keyed := run_keyed
theorem run_recordInv : run.hall.recordInv := by unfold Hall.recordInv; decide +kernel
theorem frozen_recordInv : (frozenFrom .run false floor).hall.recordInv := by unfold Hall.recordInv; decide +kernel
theorem working_run : run.hall.working := Or.inr (Or.inl rfl)
theorem working_ready : ready.hall.working := Or.inl rfl

/-! ## The step, the clock and the pins -/

theorem witness_StepRunsTheFrontCommand :
    ({ run with pending := [.stopAsserted, .hostFrameSent] } : State).pending = .stopAsserted :: [.hostFrameSent] := rfl

theorem witness_IdleStepIsOneMillisecond : run.pending = [] := rfl

theorem witness_DurationCodesDecode_boundaries :
    (1 ≤ 1 ∧ 100 ≤ 100 ∧ durationMs 1 = 6000) ∧ (101 ≤ 101 ∧ 200 ≤ 200 ∧ durationMs 101 = 660000)
      ∧ (201 ≤ 201 ∧ 255 ≤ 255 ∧ durationMs 201 = 8400000) := by decide

theorem witness_StopInputFreezesTheHall_asserted :
    run.hall.recordInv ∧ run.hall.keyed ∧ run.hall.sup.stopInput = false ∧ run.hall.sup.state ≠ .frozen :=
  ⟨run_recordInv, run_keyed, rfl, by decide⟩
theorem witness_StopInputFreezesTheHall_in_frozen :
    (frozenFrom .run false floor).hall.recordInv ∧ (frozenFrom .run false floor).hall.sup.stopInput = false
      ∧ (frozenFrom .run false floor).hall.sup.state = .frozen := ⟨frozen_recordInv, rfl, rfl⟩
theorem witness_StopInputFreezesTheHall_released :
    (frozenFrom .run true floor).hall.recordInv ∧ (frozenFrom .run true floor).hall.sup.stopInput = true :=
  ⟨by unfold Hall.recordInv; decide +kernel, rfl⟩

theorem witness_ImpossibleEventsChangeNothing_pins :
    (frozenFrom .run true floor).hall.sup.stopInput = true ∧ run.hall.sup.stopInput = false := ⟨rfl, rfl⟩
theorem witness_ImpossibleEventsChangeNothing_link : run.link.rx = [] ∧ run.link.tx = none := ⟨rfl, rfl⟩
theorem witness_ImpossibleEventsChangeNothing_request : decodeRequest 0x53 1 [] = .ok (.readMoves 1) := rfl
theorem witness_ImpossibleEventsChangeNothing_timers :
    (∀ k, run.hall.fl.job? 500 = some k → k.timer.state ≠ .running ∨ k.timer.code = 0)
      ∧ (∀ st, run.hall.fl.station? 1 = some st → st.park.state ≠ .running ∨ st.park.code = 0)
      ∧ ∀ k, holding.hall.fl.move? 5 = some k →
          k.wait.state ≠ .running ∨ k.wait.code = 0 ∨ (k.state ≠ .waiting ∧ k.state ≠ .bound) := by
  refine ⟨fun k h => ?_, fun st h => ?_, fun k h => ?_⟩
  · have : run.hall.fl.job? 500 = none := by decide
    cases (this.symm.trans h)
  · have : run.hall.fl.station? 1 = some station := by decide
    cases (this.symm.trans h); decide
  · have : holding.hall.fl.move? 5 = some { move (.phase .toPickup) with crane := some 1 } := by decide
    cases (this.symm.trans h); decide
theorem witness_ImpossibleEventsChangeNothing_line :
    run.hall.fl.line.gap = false ∧ run.hall.fl.line.visit = none ∧ run.hall.fl.line.broadcast ≠ .sending
      ∧ run.hall.fl.line.broadcast ≠ .window ∧ ∀ v, run.hall.fl.line.visit = some v → v.awaiting = false :=
  ⟨rfl, rfl, by decide, by decide, fun _ h => nomatch h⟩

/-! ## The host link -/

theorem witness_WholeFrameIsReceived_longest :
    255 < 256 ∧ 255 < 256 ∧ (List.replicate 1022 (0xA7 : Byte)).length ≤ 1022 ∧ run.link.rx = [] :=
  ⟨by decide, by decide, Nat.le_of_eq List.length_replicate, rfl⟩

theorem witness_BadFramesAreDiscardedAndCounted_length :
    run.link.rx = [] ∧ (0x00#8 ≠ 0xA7#8 ∧ 0x01#8 ≠ 0xA7#8 ∧ (0x00#8).toNat * 256 + (0x01#8).toNat < 2)
      ∧ (0x04#8 ≠ 0xA7#8 ∧ 1024 < (0x04#8).toNat * 256 + (0x01#8).toNat) := by decide
theorem witness_BadFramesAreDiscardedAndCounted_crc :
    run.link.rx = [] ∧ 2 ≤ ([0x53, 1] : List Byte).length ∧ ([0x53, 1] : List Byte).length ≤ 1024
      ∧ (∀ b ∈ enc2 2 ++ [0x53, 1] ++ encCrc 0x0000#16, b ≠ 0xA7#8) ∧ 0x0000#16 ≠ crc16 (enc2 2 ++ [0x53, 1]) := by
  decide +kernel
theorem witness_BadFramesAreDiscardedAndCounted_framing :
    run.link.rx = [] ∧ assemble [0, 2, 0x53] = .more ∧ ∀ x ∈ ([0, 2, 0x53] : List Byte), x ≠ 0xA7#8 :=
  ⟨rfl, by simp [assemble], by decide⟩
theorem witness_BadFramesAreDiscardedAndCounted_gap :
    (withLink fun k => { k with rx := [0xA7, 0, 2] }).link.rx = 0xA7#8 :: [0, 2] ∧ assemble [0, 2] = .more
      ∧ ∀ x ∈ ([0, 2] : List Byte), x ≠ 0xA7#8 := ⟨rfl, by simp [assemble], by decide⟩

/-- A reply being sent. -/
def sendingReply (f : HostLink → HostLink) : State :=
  withLink fun k => f { k with tx := some ⟨.reply, Reply.frame 0x53 1 (.accepted [0])⟩ }

theorem witness_FrameSentBeginsTheNext_overrun :
    let s := sendingReply fun k => { k with input := [served 1, waiting 2], overruns := [⟨0x53, 7⟩] }
    s.link.tx = some ⟨.reply, Reply.frame 0x53 1 (.accepted [0])⟩ ∧ s.link.overruns = ⟨0x53, 7⟩ :: [] := ⟨rfl, rfl⟩
theorem witness_FrameSentBeginsTheNext_reply :
    let s := sendingReply fun k => { k with input := [served 1, served 2, waiting 3] }
    s.link.tx = some ⟨.reply, Reply.frame 0x53 1 (.accepted [0])⟩ ∧ s.link.overruns = []
      ∧ dropServed s.link.input = [] ++ served 2 :: [waiting 3] ∧ (∀ x ∈ ([] : List Request), x.reply = none)
      ∧ (served 2).reply = some (.accepted [0]) := by decide +kernel
theorem witness_FrameSentBeginsTheNext_notice :
    let s := sendingReply fun k => { k with input := [served 1, waiting 2], notices := [⟨5000, .hall .stopReleased .run .run false none⟩] }
    s.link.overruns = [] ∧ (∀ x ∈ dropServed s.link.input, x.reply = none)
      ∧ s.link.notices = ⟨5000, .hall .stopReleased .run .run false none⟩ :: [] := by decide
theorem witness_FrameSentBeginsTheNext_nothing :
    let s := sendingReply fun k => { k with input := [served 1, waiting 2] }
    s.link.overruns = [] ∧ (∀ x ∈ dropServed s.link.input, x.reply = none) ∧ s.link.notices = [] := by decide

theorem witness_BadRequestsAreRefused_turn (code tag : Nat) (body : List Byte) :
    run.link.turn (fun r => r.code == code && r.tag == tag && r.body == body) = .direct := rfl
theorem witness_BadRequestsAreRefused_code : 128 ≤ 128 ∧ (bodyForm 0x15 1) = none := ⟨by decide, rfl⟩
theorem witness_BadRequestsAreRefused_tag : (0 : Nat) = 0 ∧ (bodyForm 0x53 0).isSome := ⟨rfl, rfl⟩
theorem witness_BadRequestsAreRefused_form : decodeRequest 0x53 1 [0] = .error (.malformed 0) := rfl
theorem witness_BadRequestsAreRefused_command :
    0x10 = 0x10 ∧ 1 ≠ 0 ∧ ([9] : List Byte) = [9#8] ∧ 9 ≤ (9#8).toNat ∧ (0#8 = 0 ∨ 9 ≤ (0#8).toNat) := by decide

theorem witness_EveryRequestDecodesFromItsBody :
    (Instr.setRunway 255 400000 30000 0 2 [0, 4294967295]).wellFormed = true
      ∧ requestTag (.setRunway 255 400000 30000 0 2 [0, 4294967295]) = some 255 := by decide

theorem witness_RequestsWaitTheirTurn_later :
    requestTag (.readMoves 3) = some 3
      ∧ (withLink fun k => { k with input := [waiting 2] }).link.turn (fun r => r.asks (.readMoves 3)) = .notNow := by decide
theorem witness_RequestsWaitTheirTurn_overrun :
    requestTag (.readMoves 5) = some 5
      ∧ (withLink fun k => { k with input := [served 1, served 2, served 3, served 4] }).link.turn
          (fun r => r.asks (.readMoves 5)) = .overrun := by decide

theorem witness_onTurn_head :
    (withLink fun k => { k with input := [served 1, waiting 2] }).onTurn (.readMoves 2) := by decide
theorem witness_RefusedRequestsChangeNothing :
    requestTag (.start 2) = some 2 ∧ setup.onTurn (.start 2) := ⟨rfl, turn _ _ _⟩

theorem witness_RequestsAreRefusedInOtherStates_busy :
    let s := stateIn .run { floor with line := { floor.line with broadcastPending := true } }
    requestTag (.hold 2) = some 2 ∧ s.onTurn (.hold 2) ∧ (Instr.hold 2).requestCode = 0x10
      ∧ s.hall.fl.line.broadcastPending = true := ⟨rfl, turn _ _ _, rfl, rfl⟩
theorem witness_RequestsAreRefusedInOtherStates_state :
    requestTag (.start 2) = some 2 ∧ setup.onTurn (.start 2)
      ∧ ((Instr.start 2).requestCode = 0x10 → setup.hall.fl.line.broadcastPending = false)
      ∧ setup.hall.sup.state ∉ acceptedIn (.start 2) := ⟨rfl, turn _ _ _, fun _ => rfl, by decide⟩

theorem witness_FirstFieldOutsideItsRangeIsRefused :
    let c := Instr.setLine 2 1 21 16 101
    requestTag c = some 2 ∧ setup.onTurn c ∧ setup.hall.sup.state ∈ acceptedIn c
      ∧ firstBad (fieldTests setup.hall.fl c) = some 2 := ⟨rfl, turn _ _ _, by decide, by decide⟩

theorem witness_ReadsLeaveTheHall : isRead (.readPlate 2 77) = true ∧ exec (.readPlate 2 77) run = .next (after (.readPlate 2 77) run) :=
  ⟨rfl, rfl⟩

/-! ## The configuration requests -/

def name8 : Text := [0x41, 0x42, 0x43, 0x44, 0x45, 0x46, 0x47, 0x48]

theorem witness_GradesAndPollEntriesAreDefined_grade :
    setup.onTurn (.setGrade 9 15 name8 8200 1 100) ∧ setup.hall.sup.state = .setup ∧ 15 ≤ 15 ∧ 1 ≤ name8.length
      ∧ name8.length ≤ 8 ∧ (∀ b ∈ name8, isSymbol b = true) ∧ 7000 ≤ 8200 ∧ 8200 ≤ 8200 ∧ 1 ≤ 1 ∧ 100 ≤ 100
      ∧ ∀ g ∈ setup.hall.cfg.grades, g.name = name8 → g.index = 15 := ⟨turn _ _ _, by decide⟩
theorem witness_GradesAndPollEntriesAreDefined_duplicate :
    setup.onTurn (.setGrade 9 0 ah36 7000 0 0) ∧ setup.hall.sup.state = .setup ∧ 0 ≤ 15 ∧ 1 ≤ ah36.length
      ∧ ah36.length ≤ 8 ∧ (∀ b ∈ ah36, isSymbol b = true) ∧ 7000 ≤ 7000 ∧ 7000 ≤ 8200 ∧ 0 ≤ 1 ∧ 0 ≤ 100
      ∧ setup.hall.cfg.grades.find? (fun g => g.name == ah36 && g.index != 0) = some ⟨3, ah36, 7850, true, 100⟩ :=
  ⟨turn _ _ _, by decide⟩
theorem witness_GradesAndPollEntriesAreDefined_poll (address : Nat) (h : address = 0 ∨ address = 30) :
    setup.onTurn (.setPoll 9 10 address 3 64 63) ∧ setup.hall.sup.state = .setup ∧ 1 ≤ 10 ∧ 10 ≤ 10 ∧ address ≤ 30
      ∧ 3 = (match NodeKind.rack with | .station => 1 | .crane => 2 | .rack => 3) ∧ (∃ e, e ≤ 6 ∧ 64 = 2 ^ e) ∧ 63 < 64 :=
  ⟨turn _ _ _, rfl, by decide, by decide, by omega, rfl, ⟨6, by decide⟩, by decide⟩

theorem witness_RunwayLimitsAndLineAreReplacedWhole_runway :
    setup.hall.sup.state = .setup ∧ setup.onTurn (.setRunway 9 20000 1000 400000 1 [400000]) ∧ 20000 ≤ 20000
      ∧ 20000 ≤ 400000 ∧ 1000 ≤ 1000 ∧ 1000 ≤ 30000 ∧ 400000 ≤ 400000 ∧ 1 ≤ 1 ∧ 1 ≤ 8 ∧ [400000].length = 1
      ∧ ∀ p ∈ [400000], p ≤ 400000 := ⟨rfl, turn _ _ _, by decide⟩
theorem witness_RunwayLimitsAndLineAreReplacedWhole_limits :
    setup.hall.sup.state = .setup ∧ setup.onTurn (.setLimits 9 20000 31 25 500 2000 1000) ∧ 100 ≤ 20000 ∧ 20000 ≤ 20000
      ∧ 31 ≤ 31 ∧ 1 ≤ 25 ∧ 25 ≤ 25 ∧ 5 ≤ 500 ∧ 500 ≤ 500 ∧ 200 ≤ 2000 ∧ 2000 ≤ 2000 ∧ 1 ≤ 1000 ∧ 1000 ≤ 1000 :=
  ⟨rfl, turn _ _ _, by decide⟩
theorem witness_RunwayLimitsAndLineAreReplacedWhole_line :
    setup.hall.sup.state = .setup ∧ setup.onTurn (.setLine 9 1 20 15 100) ∧ 1 ≤ 1 ∧ 1 ≤ 20 ∧ 20 ≤ 20 ∧ 1 ≤ 15 ∧ 15 ≤ 15
      ∧ 100 ≤ 100 := ⟨rfl, turn _ _ _, by decide⟩

theorem witness_DevicesAreDefinedOrDeleted_station (address : Nat) (h : address = 0 ∨ address = 30) :
    setup.onTurn (.setStation 9 4 address 24000 4800 1500 400000 100 100 255) ∧ setup.hall.sup.state = .setup ∧ 1 ≤ 4
      ∧ 4 ≤ 4 ∧ address ≤ 30 ∧ 200 ≤ 24000 ∧ 24000 ≤ 24000 ∧ 200 ≤ 4800 ∧ 4800 ≤ 4800 ∧ 30 ≤ 1500 ∧ 1500 ≤ 1500
      ∧ 400000 ≤ 400000 ∧ 100 ≤ 100 ∧ 100 ≤ 60000 ∧ 100 ≤ 100 ∧ 255 ≤ 255 :=
  ⟨turn _ _ _, rfl, by decide, by decide, by omega, by decide⟩
theorem witness_DevicesAreDefinedOrDeleted_crane (address : Nat) (h : address = 0 ∨ address = 30) :
    setup.onTurn (.setCrane 9 2 address 200000 199999 200000 1500 1500 15000 400000 400000)
      ∧ setup.hall.sup.state = .setup ∧ 1 ≤ 2 ∧ 2 ≤ 2 ∧ address ≤ 30 ∧ 100 ≤ 200000 ∧ 200000 ≤ 200000
      ∧ 199999 ≤ 199999 ∧ 200000 ≤ 200000 ∧ 30 ≤ 1500 ∧ 1500 ≤ 1500 ∧ 30 ≤ 1500 ∧ 1500 ≤ 1500 ∧ 1000 ≤ 15000
      ∧ 15000 ≤ 15000 ∧ 400000 ≤ 400000 ∧ 400000 ≤ 400000 :=
  ⟨turn _ _ _, rfl, by decide, by decide, by omega, by decide⟩
/-- Three racks that hold all 64 slots but the last 15. -/
def fullRacks : State := { setup with hall := { setup.hall with cfg := { setup.hall.cfg with
  racks := [⟨1, 4, 16, 4000, 3000, 1000, 0⟩, ⟨2, 5, 16, 4000, 3000, 1000, 0⟩, ⟨3, 6, 16, 4000, 3000, 1000, 0⟩] } } }
theorem witness_DevicesAreDefinedOrDeleted_rack (slots : Nat) (h : slots = 0 ∨ slots = 16) :
    fullRacks.onTurn (.setRack 9 4 30 slots 24000 4800 150000 400000) ∧ fullRacks.hall.sup.state = .setup ∧ 1 ≤ 4 ∧ 4 ≤ 4
      ∧ 1 ≤ 30 ∧ 30 ≤ 30 ∧ (slots = 0 ∨ (4 ≤ slots ∧ slots ≤ 16)) ∧ 200 ≤ 24000 ∧ 24000 ≤ 24000 ∧ 200 ≤ 4800
      ∧ 4800 ≤ 4800 ∧ 10 ≤ 150000 ∧ 150000 ≤ 150000 ∧ 400000 ≤ 400000
      ∧ ((fullRacks.hall.cfg.racks.filter fun k => k.num != 4).map RackCfg.count).sum + slots ≤ 64 := by
  refine ⟨Or.inr rfl, rfl, by decide, by decide, by decide, by decide, by omega, by decide, by decide, by decide, by decide,
    by decide, by decide, by decide, ?_⟩
  have : ((fullRacks.hall.cfg.racks.filter fun k => k.num != 4).map RackCfg.count).sum = 48 := by decide
  omega
theorem witness_DevicesAreDefinedOrDeleted_full :
    let s : State := { setup with hall := { setup.hall with cfg := { setup.hall.cfg with
      racks := [⟨1, 4, 16, 4000, 3000, 1000, 0⟩, ⟨2, 5, 16, 4000, 3000, 1000, 0⟩, ⟨3, 6, 16, 4000, 3000, 1000, 0⟩,
        ⟨4, 7, 13, 4000, 3000, 1000, 0⟩] } } }
    s.onTurn (.setRack 9 3 6 16 200 200 10 0) ∧ s.hall.sup.state = .setup
      ∧ ((s.hall.cfg.racks.filter fun k => k.num != 2).map RackCfg.count).sum + 16 ≤ 64
      ∧ 64 < ((s.hall.cfg.racks.filter fun k => k.num != 4).map RackCfg.count).sum + 17 := ⟨Or.inr rfl, by decide⟩

theorem witness_ConfigurationChangesOnlyInSetup :
    exec (.hold 9) run = .next (after (.hold 9) run) ∧ (∀ r h, Instr.hold 9 ≠ .reset r h) ∧ run.hall.sup.state ≠ .setup
      ∧ 8 < (Instr.hold 9).requestCode ∧ ∀ tag n k fs, Instr.hold 9 ≠ .defineTemplate tag n k fs :=
  ⟨rfl, by simp, by decide, by decide, by simp⟩

/-! ## The hall commands -/

theorem witness_CommitSetupMakesTheHallReady_passed :
    setup.onTurn (.commitSetup 9) ∧ setup.hall.sup.state = .setup ∧ setup.hall.keyed
      ∧ setup.hall.fl.line.broadcastPending = false ∧ setup.hall.cfg.commitFault = none :=
  ⟨turn _ _ _, rfl, setup_keyed, rfl, by decide +kernel⟩
/-- The hall of the tests in SETUP without its stations. -/
def noStation : State := { setup with hall := { setup.hall with
  cfg := { cfg with stations := [] }, fl := { setup.hall.fl with stations := [] } } }
theorem witness_CommitSetupMakesTheHallReady_failed :
    noStation.onTurn (.commitSetup 9) ∧ noStation.hall.sup.state = .setup ∧ noStation.hall.keyed
      ∧ noStation.hall.fl.line.broadcastPending = false ∧ noStation.hall.cfg.commitFault = some (.noStation, .none) :=
  ⟨Or.inr rfl, rfl, by unfold Hall.keyed Tables.keyed Floor.keyed; decide +kernel, rfl, by decide +kernel⟩

/-- The first two rows of the table of R154 failing, each with no row before it, and a VACANT station. -/
theorem witness_CommitSetupMakesTheHallReady_rows :
    (noStation.hall.cfg.fails 0 .noStation .none ∧ ∀ j < 0, ∀ e f, ¬ noStation.hall.cfg.fails j e f)
      ∧ (({ cfg with cranes := [] } : Tables).fails 1 .noCrane .none
          ∧ ∀ j < 1, ∀ e f, ¬ ({ cfg with cranes := [] } : Tables).fails j e f)
      ∧ setup.hall.fl.station? 1 = some (Station.initial 1 37) ∧ (Station.initial 1 37).state = .vacant := by
  refine ⟨⟨⟨rfl, rfl, rfl⟩, fun j h => absurd h (by omega)⟩, ⟨⟨rfl, rfl, rfl⟩, fun j h e f hf => ?_⟩, rfl, rfl⟩
  obtain rfl : j = 0 := by omega
  exact absurd hf.1 (by decide)

theorem witness_StartGrantsEveryCraneItsSpan_granted :
    ready.onTurn (.start 9) ∧ ready.hall.sup.state = .ready ∧ ready.hall.fl.line.broadcastPending = false
      ∧ (∀ k ∈ ready.hall.fl.cranes, k.up = true ∧ k.position.isSome)
      ∧ (∀ a b, ready.hall.cfg.crane? 1 = some a → ready.hall.cfg.crane? 2 = some b →
          ready.hall.fl.positionOf 1 + a.halfSpan + ready.hall.cfg.separation + b.halfSpan ≤ ready.hall.fl.positionOf 2)
      ∧ ready.hall.keyed ∧ ready.hall.fl.crane? 1 = some { crane 1 20000 16000 24000 with grant := none }
      ∧ (crane 1 20000 16000 24000).position = some 20000 ∧ (crane 1 20000 16000 24000).outbox.length ≤ 3 := by
  refine ⟨turn _ _ _, rfl, rfl, by decide, fun a b ha hb => ?_, ready_keyed, by decide⟩
  have h1 : ready.hall.cfg.crane? 1 = some ⟨1, 2, 120000, 18000, 90000, 250, 40, 4000, 0, 95000⟩ := by decide
  have h2 : ready.hall.cfg.crane? 2 = some ⟨2, 3, 120000, 18000, 90000, 250, 40, 4000, 5000, 100000⟩ := by decide
  cases (h1.symm.trans ha); cases (h2.symm.trans hb); decide
theorem witness_StartGrantsEveryCraneItsSpan_too_close :
    let s := stateIn .ready { floor with cranes := [crane 1 20000 0 0, crane 2 32999 0 0] }
    s.onTurn (.start 9) ∧ s.hall.sup.state = .ready ∧ s.hall.fl.line.broadcastPending = false
      ∧ (∀ k ∈ s.hall.fl.cranes, k.up = true ∧ k.position.isSome)
      ∧ s.hall.cfg.crane? 1 = some ⟨1, 2, 120000, 18000, 90000, 250, 40, 4000, 0, 95000⟩
      ∧ s.hall.cfg.crane? 2 = some ⟨2, 3, 120000, 18000, 90000, 250, 40, 4000, 5000, 100000⟩
      ∧ s.hall.fl.positionOf 2 < s.hall.fl.positionOf 1 + 4000 + s.hall.cfg.separation + 4000 := ⟨turn _ _ _, by decide⟩
theorem witness_StartGrantsEveryCraneItsSpan_unknown :
    let s := stateIn .ready { floor with cranes := [Crane.initial 1, crane 2 80000 0 0] }
    s.onTurn (.start 9) ∧ s.hall.sup.state = .ready ∧ s.hall.fl.line.broadcastPending = false
      ∧ s.hall.fl.cranes.find? (fun k => !(k.up && k.position.isSome)) = some (Crane.initial 1) := ⟨turn _ _ _, by decide⟩

/-- The working state of an event on a floor, and its context. -/
def work (fl : Floor) : Work := Work.begin fl
def ctx : Ctx := run.hall.ctx
/-- The working state of the hall in RUN with crane 1 as given, the runway stopped or not, and the given moves. -/
def craneWork (k : Crane) (stopped : Bool) (moves : List Move) : Work :=
  work { floor with cranes := [k, crane 2 80000 76000 84000], runwayStopped := stopped, moves := moves }
/-- Crane 1 with its grant in a health, the count of good reports, and the tag of its move. -/
def craneIn (q : CraneHealth) (good : Nat) (bound : Option Nat) (grant : Grant) : Crane :=
  { crane 1 20000 16000 24000 with health := q, good := good, bound := bound, grant := some grant }
theorem craneWork_keyed (k : Crane) (stopped : Bool) (moves : List Move) (h : k.num = 1)
    (hm : (moves.map Move.tag).Nodup) : (craneWork k stopped moves).fl.keyed := by
  obtain ⟨h1, h2, h3, h4, h5, -, h7, h8, -⟩ := run_keyed.2.1
  exact ⟨h1, h2, h3, h4, h5, by simp [craneWork, work, Work.begin, h, crane, Crane.initial], h7, h8, hm⟩
theorem craneWork_crane (k : Crane) (stopped : Bool) (moves : List Move) (h : k.num = 1) :
    (craneWork k stopped moves).fl.crane? 1 = some k := by
  simp [craneWork, work, Work.begin, Floor.crane?, Table.get, h]

/-- What every clause on a crane's position asks, for crane 1 as given. -/
theorem witness_StartGrantsEveryCraneItsSpan_position (k : Crane) (stopped : Bool) (h : k.num = 1) :
    (craneWork k stopped []).fl.keyed ∧ (craneWork k stopped []).fl.crane? 1 = some k
      ∧ ctx.cfg.limits = some ⟨2000, 3, 5, 500, 500, 200⟩ ∧ ctx.cfg.runwayLength = 100000 ∧ ctx.halfSpan 1 = 4000 :=
  ⟨craneWork_keyed _ _ _ h (by decide), craneWork_crane _ _ _ h, by decide⟩
/-- Positions too far off: above the runway's length, and more than the jump limit from the last. -/
theorem witness_StartGrantsEveryCraneItsSpan_far :
    let near := fun (k : Crane) (p : Nat) =>
      p ≤ 100000 ∧ (k.fresh = true ∨ ∀ q, k.position = some q → p ≤ q + 2000 ∧ q ≤ p + 2000)
    let k := craneIn .normal 0 none ⟨16000, 24000⟩
    ¬ near { k with fresh := true } 100001 ∧ ¬ near k 22001 ∧ ¬ near k 17999
      ∧ near k 22000 ∧ near k 20000 ∧ near k 18000 ∧ near { k with fresh := true } 100000 := by
  refine ⟨fun h => absurd h.1 (by decide), fun h => ?_, fun h => ?_, ?_, ?_, ?_, ⟨by decide, Or.inl rfl⟩⟩
  · exact h.2.elim (fun h => nomatch h) fun h => absurd (h _ rfl).1 (by decide)
  · exact h.2.elim (fun h => nomatch h) fun h => absurd (h _ rfl).2 (by decide)
  all_goals
    refine ⟨by decide, Or.inr fun q h => ?_⟩
    cases h
    decide
/-- At 20,000 within the grant: a grant that is as trimmed, one that is wider, and one with a move still to reach two points. -/
theorem witness_StartGrantsEveryCraneItsSpan_trim :
    let m := { move (.phase .toPickup) with crane := some 1 }
    let k := craneIn .normal 0 (some 5) ⟨16000, 94000⟩
    (ctx.toReach (craneWork (craneIn .normal 0 none ⟨16000, 24000⟩) false []).fl (craneIn .normal 0 none ⟨16000, 24000⟩) []
        ∧ (⟨max (20000 - 4000) 16000, min (min 100000 (20000 + 4000)) 24000⟩ : Grant) = ⟨16000, 24000⟩)
      ∧ (⟨max (20000 - 4000) 10000, min (min 100000 (20000 + 4000)) 24000⟩ : Grant) ≠ ⟨10000, 24000⟩
      ∧ ctx.toReach (craneWork k false [m]).fl k [60000, 90000] ∧ 20000 ∈ 20000 :: [60000, 90000]
      ∧ (∀ a ∈ 20000 :: [60000, 90000], 20000 ≤ a) ∧ 90000 ∈ 20000 :: [60000, 90000]
      ∧ (∀ a ∈ 20000 :: [60000, 90000], a ≤ 90000) ∧ (16000 ≤ 20000 - 4000 ∧ min 100000 (20000 + 4000) ≤ 94000)
      ∧ k.health = .normal ∧ (craneWork k false [m]).fl.runwayStopped = false := by
  refine ⟨⟨Or.inl ⟨rfl, rfl⟩, by decide⟩, by decide, Or.inr ⟨5, _, 90000, rfl, rfl, by decide, Or.inr ⟨Or.inr (Or.inl rfl),
    60000, by decide, rfl⟩⟩, by decide⟩
/-- The counts of a DEGRADED crane about K = 3, K = 0, a FAULTED crane, and positions that breach the grant. -/
theorem witness_StartGrantsEveryCraneItsSpan_health :
    ((craneIn .degraded 1 none ⟨16000, 24000⟩).health = .degraded ∧ 1 + 1 < 3)
      ∧ (0 < 3 ∧ 3 ≤ 2 + 1 ∧ 3 ≤ 31 ∧ (craneIn .degraded 2 none ⟨16000, 24000⟩).bound = none)
      ∧ (0 < 31 ∧ 31 ≤ 31 + 1 ∧ 31 ≤ 31)
      ∧ ({ ctx with cfg := { ctx.cfg with limits := some ⟨2000, 0, 5, 500, 500, 200⟩ } } : Ctx).cfg.limits.map Limits.restore
          = some 0
      ∧ (craneIn .faulted 0 none ⟨16000, 24000⟩).health = .faulted
      ∧ (24000 < min 100000 (20001 + 4000) ∧ 19999 - 4000 < 16000)
      ∧ (craneIn .normal 0 none ⟨16000, 24000⟩).health ≠ .offline
      ∧ (craneWork (craneIn .normal 0 none ⟨16000, 24000⟩) true []).fl.runwayStopped = true
      ∧ (craneWork (craneIn .normal 0 none ⟨16000, 24000⟩) false []).fl.runwayStopped = false := by decide
/-- A crane that is lost in a move, in a phase and BOUND, and one that is lost without. -/
theorem witness_StartGrantsEveryCraneItsSpan_lost (q : MoveState) :
    let k := craneIn .normal 0 (some 5) ⟨16000, 24000⟩
    let m := { move q with crane := some 1 }
    let w := craneWork k false [m]
    (w.fl.keyed ∧ w.fl.crane? 1 = some k ∧ k.health = .normal ∧ k.grant.isSome ∧ k.bound = some 5
        ∧ w.fl.move? 5 = some m ∧ m.crane = some 1 ∧ m.state = q ∧ m.waitingFor = none ∧ m.expired = false)
      ∧ (craneIn .normal 0 none ⟨16000, 24000⟩).bound = none ∧ (craneIn .degraded 0 none ⟨16000, 24000⟩).health = .degraded
      ∧ (craneIn .faulted 0 none ⟨16000, 24000⟩).health = .faulted :=
  ⟨⟨craneWork_keyed _ _ _ rfl (List.nodup_cons.2 ⟨(fun h => nomatch h), List.nodup_nil⟩), rfl, rfl, rfl, rfl, rfl, rfl, rfl, rfl,
    rfl⟩, rfl, rfl, rfl⟩
theorem witness_StartGrantsEveryCraneItsSpan_faults :
    let k : Crane := { craneIn .faulted 0 none ⟨16000, 24000⟩ with fault := some 7 }
    (k.fault = some 7 ∧ k.cleared = false) ∧ ({ k with cleared := true } : Crane).cleared = true
      ∧ ((craneIn .normal 0 none ⟨16000, 24000⟩).fault ≠ some 7 ∧ (craneIn .normal 0 none ⟨16000, 24000⟩).health ≠ .faulted
          ∧ (craneIn .normal 0 none ⟨16000, 24000⟩).bound = none)
      ∧ (craneIn .normal 0 none ⟨16000, 24000⟩).fault = none := by decide

theorem witness_HoldBringsTheHallToRest (s : State) (h : s = run ∨ s = holding ∨ s = held) :
    s.onTurn (.hold 9) ∧ s.hall.fl.line.broadcastPending = false ∧ s.hall.keyed
      ∧ (s.hall.sup.state = .run ∨ s.hall.sup.state = .holding ∨ s.hall.sup.state = .held) := by
  obtain rfl | rfl | rfl := h
  · exact ⟨turn _ _ _, rfl, run_keyed, Or.inl rfl⟩
  · exact ⟨turn _ _ _, rfl, by unfold Hall.keyed Tables.keyed Floor.keyed; decide +kernel, Or.inr (Or.inl rfl)⟩
  · exact ⟨turn _ _ _, rfl, held_keyed, Or.inr (Or.inr rfl)⟩
theorem witness_ResumeReturnsTheHallToRun :
    (holding.onTurn (.resume 9) ∧ holding.hall.fl.line.broadcastPending = false ∧ holding.hall.sup.state = .holding)
      ∧ held.onTurn (.resume 9) ∧ held.hall.fl.line.broadcastPending = false ∧ held.hall.sup.state = .held :=
  ⟨⟨turn _ _ _, rfl, rfl⟩, turn _ _ _, rfl, rfl⟩
/-- Crane 1 with FROZEN alone among its stop causes, and a hall in HELD. -/
theorem witness_ResumeReturnsTheHallToRun_stops :
    let k : Crane := { crane 1 20000 16000 24000 with stopFrozen := true }
    held.hall.keyed ∧ (work held.hall.fl).fl = held.hall.fl ∧ (craneWork k false []).fl.crane? 1 = some k
      ∧ k.stopFrozen = true ∧ k.stopBreach = false ∧ k.outbox.length ≤ 3 := ⟨held_keyed, rfl, by decide⟩
theorem witness_FreezeHaltsTheHall :
    (run.onTurn (.freeze 9) ∧ run.hall.fl.line.broadcastPending = false ∧ run.hall.keyed ∧ run.hall.sup.state ≠ .frozen)
      ∧ (frozenFrom .run false floor).onTurn (.freeze 9) ∧ (frozenFrom .run false floor).hall.keyed
      ∧ (frozenFrom .run false floor).hall.sup.state = .frozen :=
  ⟨⟨turn _ _ _, rfl, run_keyed, by decide⟩, frozen_turn _ _ _ _, frozen_keyed _ _, rfl⟩
theorem witness_ClearFreezeReturnsByFrozenFrom (q : HallState) :
    let s := frozenFrom q false floor
    s.onTurn (.clearFreeze 9) ∧ s.hall.fl.line.broadcastPending = false ∧ s.hall.sup.state = .frozen
      ∧ s.hall.sup.stopInput = false ∧ s.hall.sup.frozenFrom = some q := ⟨frozen_turn _ _ _ _, rfl, rfl, rfl, rfl⟩
theorem witness_ClearFreezeReturnsByFrozenFrom_stop :
    let s := frozenFrom .run true floor
    s.onTurn (.clearFreeze 9) ∧ s.hall.fl.line.broadcastPending = false ∧ s.hall.sup.state = .frozen
      ∧ s.hall.sup.stopInput = true ∧ s.hall.sup.capture = some 4000 := ⟨frozen_turn _ _ _ _, rfl, rfl, rfl, rfl⟩
theorem witness_ClearFreezeReturnsByFrozenFrom_floor (q : HallState) :
    let s := frozenFrom q false floor
    s.hall.keyed ∧ (work s.hall.fl).fl = s.hall.fl ∧ s.hall.fl.station? 1 = some station ∧ station.outbox = []
      ∧ s.hall.fl.crane? 1 = some (crane 1 20000 16000 24000) := ⟨frozen_keyed _ _, rfl, rfl, rfl, rfl⟩
theorem witness_ReconfigureEntersSetupWhenEmpty_job :
    let s := stateIn .held { floor with jobs := [job .queued] }
    s.onTurn (.reconfigure 9) ∧ s.hall.fl.line.broadcastPending = false ∧ s.hall.sup.state = .held
      ∧ job .queued ∈ s.hall.fl.jobs ∧ ∀ k ∈ s.hall.fl.jobs, (job .queued).id ≤ k.id := ⟨turn _ _ _, by decide⟩
theorem witness_ReconfigureEntersSetupWhenEmpty_plate :
    ready.onTurn (.reconfigure 9) ∧ ready.hall.fl.line.broadcastPending = false ∧ ready.hall.sup.state = .ready
      ∧ ready.hall.fl.jobs = [] ∧ p77 ∈ ready.hall.fl.plates ∧ ∀ k ∈ ready.hall.fl.plates, p77.id ≤ k.id :=
  ⟨turn _ _ _, by decide⟩
theorem witness_ReconfigureEntersSetupWhenEmpty_move :
    let s := stateIn .held { floor with plates := [], moves := [move .waiting] }
    s.onTurn (.reconfigure 9) ∧ s.hall.fl.line.broadcastPending = false ∧ s.hall.sup.state = .held ∧ s.hall.fl.jobs = []
      ∧ s.hall.fl.plates = [] ∧ move .waiting ∈ s.hall.fl.moves ∧ ∀ k ∈ s.hall.fl.moves, (move .waiting).tag ≤ k.tag :=
  ⟨turn _ _ _, by decide⟩
theorem witness_ReconfigureEntersSetupWhenEmpty_empty :
    let s := stateIn .ready { floor with plates := [] }
    s.onTurn (.reconfigure 9) ∧ s.hall.fl.line.broadcastPending = false ∧ s.hall.sup.state = .ready ∧ s.hall.fl.jobs = []
      ∧ s.hall.fl.plates = [] ∧ s.hall.fl.moves = [] := ⟨turn _ _ _, by decide⟩
theorem witness_ClearRegisterEmptiesEveryTable :
    setup.onTurn (.clearRegister 9) ∧ setup.hall.fl.line.broadcastPending = false ∧ setup.hall.sup.state = .setup :=
  ⟨turn _ _ _, rfl, rfl⟩

/-! ## Reading the part -/

theorem witness_StatusRequestsReport :
    run.onTurn (.readHall 9) ∧ run.onTurn (.identify 9) ∧ run.onTurn (.getStatus 9) :=
  ⟨turn _ _ _, turn _ _ _, turn _ _ _⟩

def allKinds : List Nat := [0x80, 0x81, 0x82, 0x83, 0x84, 0x85, 0x86, 0x87, 0x88, 0x89]

theorem witness_SetNoticesChangesTheEnableSet_undefined :
    run.onTurn (.setNotices 9 [0x8A] [0x7F]) ∧ [0x8A].length ≤ 10 ∧ [0x7F].length ≤ 10
      ∧ ([0x8A] ++ [0x7F]).find? (fun v => decide (v < 0x80 ∨ 0x89 < v)) = some 0x8A
      ∧ ([0x89] ++ [0x7F]).find? (fun v => decide (v < 0x80 ∨ 0x89 < v)) = some 0x7F := ⟨turn _ _ _, by decide⟩
theorem witness_SetNoticesChangesTheEnableSet_both :
    run.onTurn (.setNotices 9 [0x80, 0x89] [0x89]) ∧ [0x80, 0x89].length ≤ 10 ∧ [0x89].length ≤ 10
      ∧ (∀ v ∈ [0x80, 0x89] ++ [0x89], 0x80 ≤ v ∧ v ≤ 0x89)
      ∧ [0x80, 0x89].find? (fun v => [0x89].contains v) = some 0x89 := ⟨turn _ _ _, by decide⟩
theorem witness_SetNoticesChangesTheEnableSet_sets :
    run.onTurn (.setNotices 9 allKinds []) ∧ allKinds.length ≤ 10 ∧ ([] : List Nat).length ≤ 10
      ∧ (∀ v ∈ allKinds ++ [], 0x80 ≤ v ∧ v ≤ 0x89) ∧ ∀ v ∈ allKinds, v ∉ ([] : List Nat) := ⟨turn _ _ _, by decide⟩

theorem witness_RecordReadsReportTheRecord_plates :
    run.onTurn (.readPlate 9 77) ∧ run.hall.fl.plate? 77 = some p77 ∧ run.hall.fl.plate? 79 = none :=
  ⟨turn _ _ _, by decide⟩
theorem witness_RecordReadsReportTheRecord_racks :
    run.onTurn (.readRack 9 1) ∧ (run.hall.cfg.rack? 1).isSome ∧ (run.hall.fl.rack? 1).isSome ∧ run.hall.cfg.rack? 2 = none :=
  ⟨turn _ _ _, by decide⟩
theorem witness_RecordReadsReportTheRecord_stations :
    run.onTurn (.readStation 9 1) ∧ (run.hall.cfg.station? 1).isSome ∧ run.hall.fl.station? 1 = some station
      ∧ run.hall.cfg.station? 4 = none := ⟨turn _ _ _, by decide⟩
theorem witness_RecordReadsReportTheRecord_marks :
    (run.onTurn (.readTemplate 9 16) ∧ 1 ≤ 16 ∧ 16 ≤ 16)
      ∧ run.onTurn (.readCounter 9 1) ∧ 1 ≤ 1 ∧ 1 ≤ 8 ∧ run.hall.fl.counter? 1 = some ⟨1, some 4, some 12, some 11, false, none⟩ :=
  ⟨⟨turn _ _ _, by decide⟩, turn _ _ _, by decide⟩
theorem witness_RecordReadsReportTheRecord_jobs :
    let s := stateIn .run { floor with jobs := [job .queued] }
    s.onTurn (.readJob 9 500) ∧ s.hall.fl.job? 500 = some (job .queued) ∧ s.hall.fl.job? 501 = none
      ∧ s.onTurn (.readQueue 9 1) ∧ (s.hall.cfg.station? 1).isSome ∧ s.hall.cfg.station? 2 = none :=
  ⟨turn _ _ _, by decide, by decide, turn _ _ _, by decide⟩
theorem witness_RecordReadsReportTheRecord_moves :
    holding.onTurn (.readMove 9 5) ∧ 5 ≤ 31
      ∧ holding.hall.fl.move? 5 = some { move (.phase .toPickup) with crane := some 1 } ∧ holding.hall.fl.move? 31 = none
      ∧ holding.onTurn (.readMoves 9) := ⟨turn _ _ _, by decide, by decide, by decide, turn _ _ _⟩
theorem witness_RecordReadsReportTheRecord_cranes :
    run.onTurn (.readCrane 9 1) ∧ (run.hall.cfg.crane? 1).isSome ∧ run.hall.fl.crane? 1 = some (crane 1 20000 16000 24000)
      ∧ run.hall.cfg.crane? 3 = none := ⟨turn _ _ _, by decide⟩
theorem witness_RecordReadsReportTheRecord_nodes :
    run.onTurn (.readNode 9 1) ∧ run.hall.sup.state ≠ .setup ∧ run.hall.fl.node? 1 = some (node 1 .station)
      ∧ run.hall.fl.node? 5 = none := ⟨turn _ _ _, by decide⟩

theorem witness_FindStockListsTheBestFits :
    run.onTurn (.findStock 9 3 160 1 24000 1 0) ∧ 3 ≤ 15 ∧ 30 ≤ 160 ∧ 160 ≤ 1500 ∧ 1 ≤ 1 ∧ 1 ≤ 24000 ∧ 1 ≤ 24000
      ∧ 24000 ≤ 24000 ∧ 1 ≤ 1 ∧ 0 ≤ 4 ∧ run.hall.cfg.grade? 3 = some ⟨3, ah36, 7850, true, 100⟩
      ∧ run.hall.cfg.grade? 15 = none := ⟨turn _ _ _, by decide⟩
theorem witness_FindStockListsTheBestFits_candidate :
    p78 ∈ run.hall.fl.plates ∧ p78.hold = .free ∧ p78.grade = 3 ∧ p78.thickness = 160 ∧ p78.location = .rack 1 1
      ∧ (run.hall.fl.rack? 1).any Rack.up = true ∧ (run.hall.fl.slot? 1 1).map Slot.dispute = some .none
      ∧ fitIn p78.len p78.wid p78.notch 3200 1250 = some .northSide := by decide

theorem witness_PlacementsClearTheNotch :
    (3200 ≤ 3200 ∧ 1850 ≤ 1850) ∧ (900 + 100 ≤ 3200 ∧ 600 + 100 ≤ 1850)
      ∧ (2300 ≤ 3200 - 900 ∧ 1850 ≤ 1850)
      ∧ (¬ (2301 ≤ 3200 - 900 ∧ 1250 ≤ 1850) ∧ 2301 ≤ 3200 ∧ 1250 ≤ 1850 - 600)
      ∧ (¬ (2301 ≤ 3200 - 900 ∧ 1251 ≤ 1850) ∧ ¬ (2301 ≤ 3200 ∧ 1251 ≤ 1850 - 600)) := by decide
theorem witness_PlacementsClearTheNotch_turned :
    fitIn p78.len p78.wid p78.notch 1250 3200 = none ∧ fitIn p78.len p78.wid p78.notch 3200 1250 = some .northSide := by
  decide

/-! ## Plates and stock -/

theorem ranges (corner nl nw : Nat) (h : corner = 0 ∨ (corner = 4 ∧ nl = 5900 ∧ nw = 100)) :
    plateInRanges 3 160 k41207 6000 2500 corner nl nw := by
  unfold plateInRanges
  refine ⟨by decide, by decide, by decide, by decide, by decide, by decide, by decide, by decide, by decide, by decide,
    by omega, fun h0 => ?_⟩
  omega

/-- The request of the witnesses: the worked plate for bay 1. -/
def register : Instr := .registerPlate 9 1 3 160 k41207 6000 2500 0 0 0
/-- A floor with 96 plates. -/
def fullFloor : Floor := { floor with plates := (List.range' 1 96).map fun i => { p77 with id := i } }
/-- A floor whose bay 1 is as given. -/
def bayFloor (b : Bay) : Floor := { floor with bays := [b, ⟨2, [], 0, none⟩] }

theorem witness_RegisterPlateCreatesARawRecord_unknown :
    (run.onTurn (.registerPlate 9 3 3 160 k41207 6000 2500 0 0 0) ∧ run.hall.working
        ∧ plateInRanges 3 160 k41207 6000 2500 0 0 0 ∧ run.hall.fl.bay? 3 = none)
      ∧ run.hall.fl.bay? 1 = some ⟨1, [77], 0, none⟩ ∧ run.hall.cfg.grade? 4 = none :=
  ⟨⟨turn _ _ _, working_run, ranges _ _ _ (Or.inl rfl), by decide⟩, by decide⟩
theorem witness_RegisterPlateCreatesARawRecord_full :
    let s := stateIn .run fullFloor
    s.onTurn register ∧ s.hall.working ∧ plateInRanges 3 160 k41207 6000 2500 0 0 0
      ∧ s.hall.fl.bay? 1 = some ⟨1, [77], 0, none⟩ ∧ s.hall.cfg.grade? 3 = some ⟨3, ah36, 7850, true, 100⟩
      ∧ 96 ≤ s.hall.fl.plates.length :=
  ⟨turn _ _ _, Or.inr (Or.inl rfl), ranges _ _ _ (Or.inl rfl), by decide, by decide, by decide +kernel⟩
theorem witness_RegisterPlateCreatesARawRecord_claimed :
    let s := stateIn .run (bayFloor ⟨1, [77], 0, some 5⟩)
    s.onTurn register ∧ s.hall.working ∧ plateInRanges 3 160 k41207 6000 2500 0 0 0
      ∧ s.hall.fl.bay? 1 = some ⟨1, [77], 0, some 5⟩ ∧ s.hall.cfg.grade? 3 = some ⟨3, ah36, 7850, true, 100⟩
      ∧ s.hall.fl.plates.length < 96 ∧ (some 5).isSome :=
  ⟨turn _ _ _, Or.inr (Or.inl rfl), ranges _ _ _ (Or.inl rfl), by decide⟩
theorem witness_RegisterPlateCreatesARawRecord_stack_full :
    let s := stateIn .run (bayFloor ⟨1, [71, 72, 73, 74, 77], 1, none⟩)
    s.onTurn register ∧ s.hall.working ∧ plateInRanges 3 160 k41207 6000 2500 0 0 0
      ∧ s.hall.fl.bay? 1 = some ⟨1, [71, 72, 73, 74, 77], 1, none⟩ ∧ s.hall.fl.plates.length < 96
      ∧ 6 ≤ [71, 72, 73, 74, 77].length + 1 :=
  ⟨turn _ _ _, Or.inr (Or.inl rfl), ranges _ _ _ (Or.inl rfl), by decide⟩
theorem witness_RegisterPlateCreatesARawRecord_accepted :
    let s := stateIn .run (bayFloor ⟨1, [71, 72, 73, 74, 77], 0, none⟩)
    s.onTurn (.registerPlate 9 1 3 160 k41207 6000 2500 4 5900 100) ∧ s.hall.working
      ∧ plateInRanges 3 160 k41207 6000 2500 4 5900 100
      ∧ s.hall.fl.bay? 1 = some ⟨1, [71, 72, 73, 74, 77], 0, none⟩
      ∧ s.hall.cfg.grade? 3 = some ⟨3, ah36, 7850, true, 100⟩ ∧ s.hall.fl.plates.length < 96
      ∧ [71, 72, 73, 74, 77].length + 0 < 6 :=
  ⟨turn _ _ _, Or.inr (Or.inl rfl), ranges _ _ _ (Or.inr ⟨rfl, rfl, rfl⟩), by decide⟩

theorem witness_IdsAreIssuedInTurn :
    let fl := { floor with nextId := 65535, plates := [{ p77 with id := 1 }, { p78 with id := 65535 }] }
    1 ≤ fl.nextId ∧ fl.nextId ≤ 65535 ∧ fl.plates.length ≤ 96 ∧ fl.issueId = 2 := by decide +kernel

/-- The hall in RUN with one plate. -/
def onePlate (p : Plate) : State := stateIn .run { floor with plates := [p] }
theorem working_onePlate (p : Plate) : (onePlate p).hall.working := Or.inr (Or.inl rfl)

theorem witness_PlatesAreReleasedAndRemoved_release (h : Hold) :
    let s := onePlate { p77 with hold := h }
    s.hall.working ∧ s.onTurn (.releasePlate 9 77) ∧ s.hall.fl.plate? 77 = some { p77 with hold := h }
      ∧ s.hall.fl.plate? 78 = none := ⟨Or.inr (Or.inl rfl), turn _ _ _, rfl, rfl⟩
theorem witness_PlatesAreReleasedAndRemoved_moved :
    let s := stateIn .run { floor with moves := [move .waiting] }
    s.hall.working ∧ s.onTurn (.removePlate 9 78) ∧ s.hall.fl.plate? 78 = some p78
      ∧ s.hall.fl.moves.find? (fun m => m.load == .plate 78) = some (move .waiting) :=
  ⟨Or.inr (Or.inl rfl), turn _ _ _, by decide⟩
/-- What the clauses of REMOVE_PLATE ask, for a plate that no move carries. -/
theorem witness_PlatesAreReleasedAndRemoved_remove (p : Plate) (h : p.id = 77) :
    (onePlate p).hall.working ∧ (onePlate p).onTurn (.removePlate 9 77) ∧ (onePlate p).hall.fl.plate? 77 = some p
      ∧ ∀ m ∈ (onePlate p).hall.fl.moves, m.load ≠ .plate 77 := by
  refine ⟨Or.inr (Or.inl rfl), turn _ _ _, ?_, fun m h => nomatch h⟩
  simp [onePlate, stateIn, hallIn, Floor.plate?, Table.get, h]
theorem witness_PlatesAreReleasedAndRemoved_clauses :
    (∃ j, ({ p77 with hold := .reserved 500 } : Plate).hold = .reserved j ∨ ({ p77 with hold := .reserved 500 } : Plate).hold = .committed j)
      ∧ (∃ r n, ({ p78 with id := 77 } : Plate).location = .rack r n ∧ p78.hold = .free)
      ∧ (∃ k, ({ p77 with location := .crane 1 } : Plate).location = .crane k ∧ p77.hold = .free)
      ∧ (∃ n, ({ p77 with location := .station 1 } : Plate).location = .station n ∧ p77.hold = .free
          ∧ (onePlate { p77 with location := .station 1 }).hall.fl.station? n = some station ∧ station.state ≠ .loaded)
      ∧ (∃ b l, p77.location = .bay b l ∧ run.hall.fl.bay? b = some ⟨1, [77], 0, none⟩ ∧ [77].getLast? = some 77)
      ∧ ([77, 71].getLast? ≠ some 77)
      ∧ (({ p77 with location := .station 1 } : Plate).location = .station 1
          ∧ (stateIn .run { floor with stations := [{ station with state := .loaded }] }).hall.fl.station? 1
            = some { station with state := .loaded }) := by
  refine ⟨⟨500, Or.inl rfl⟩, ⟨1, 1, rfl, rfl⟩, ⟨1, rfl, rfl⟩, ⟨1, rfl, rfl, by decide, by decide⟩, ⟨1, 1, rfl, by decide, rfl⟩,
    by decide, rfl, by decide⟩

/-- The hall in RUN with the remnant 78 LIFT_FAILED on the bed of station 1, its job at STORE, and the slot 2 as given. -/
def liftFailed (slot : Slot) : State := stateIn .run { floor with
  plates := [p77, { p78 with hold := .quarantined, location := .station 1 }]
  racks := [⟨1, true, [slot]⟩]
  jobs := [{ job .closing with closeOut := some ⟨.store, none, none, some 78, false, none, none, false, .complete⟩ }]
  stations := [{ station with state := .clearing, bed := some 78, job := some 500, cond := .liftFailed }] }
theorem witness_PlatesAreReleasedAndRemoved_liftFailed (slot : Slot) :
    let s := liftFailed slot
    let st : Station := { station with state := .clearing, bed := some 78, job := some 500, cond := .liftFailed }
    let q : CloseOut := ⟨.store, none, none, some 78, false, none, none, false, .complete⟩
    s.hall.working ∧ s.onTurn (.releasePlate 9 78) ∧ s.onTurn (.removePlate 9 78)
      ∧ s.hall.fl.plate? 78 = some { p78 with hold := .quarantined, location := .station 1 }
      ∧ (∀ m ∈ s.hall.fl.moves, m.load ≠ .plate 78)
      ∧ (work s.hall.fl).fl = s.hall.fl ∧ s.hall.keyed ∧ s.hall.fl.station? 1 = some st ∧ st.cond = .liftFailed
      ∧ s.hall.fl.leadJob 1 = some { job .closing with closeOut := some q } ∧ q.step = .store ∧ q.remnant = some 78
      ∧ (job .closing).station = 1 := by
  obtain ⟨h1, h2, -, h4, h5, h6, h7, h8, h9⟩ := run_keyed.2.1
  exact ⟨Or.inr (Or.inl rfl), turn _ _ _, turn _ _ _, rfl, (fun m h => nomatch h), rfl,
    ⟨run_keyed.1, ⟨by simp [liftFailed, stateIn, hallIn, p77, p78], h2,
      by simp [liftFailed, stateIn, hallIn], by simp [liftFailed, stateIn, hallIn], h5, h6, h7,
      by simp [liftFailed, stateIn, hallIn], h9⟩, run_keyed.2.2⟩, rfl, rfl, rfl, rfl, rfl, rfl⟩
/-- A slot that takes the remnant, and one that does not. -/
theorem witness_PlatesAreReleasedAndRemoved_slots :
    let free : Plate := { p78 with location := .station 1 }
    let fl := fun (slot : Slot) => ((work (liftFailed slot).hall.fl).setHold 78 .free).fl
    (fl ⟨2, none, .empty, none, 0, .none, .none, false⟩).chooseSlot ctx.cfg free = some (1, 2)
      ∧ (fl ⟨2, none, .empty, none, 0, .none, .none, false⟩).freeTag = some 16
      ∧ (fl ⟨2, none, .unknown, none, 0, .none, .none, false⟩).chooseSlot ctx.cfg free = none := by decide +kernel
/-- The bed of a LOADED station, a bay with a plate under and a plate above, and a crane's magnet. -/
theorem witness_PlatesAreReleasedAndRemoved_places :
    let s := stateIn .run { floor with
      plates := [{ p77 with id := 75 }, { p77 with id := 76, location := .bay 1 2, hold := .quarantined },
        { p77 with location := .bay 1 3 }]
      bays := [⟨1, [75, 76, 77], 0, none⟩, ⟨2, [], 0, none⟩] }
    let st : Station := { station with state := .loaded, bed := some 77 }
    s.hall.working ∧ s.hall.keyed ∧ s.hall.fl.plate? 76 = some { p77 with id := 76, location := .bay 1 2, hold := .quarantined }
      ∧ s.hall.fl.bay? 1 = some ⟨1, [75, 76, 77], 0, none⟩ ∧ s.hall.fl.plate? 77 = some { p77 with location := .bay 1 3 }
      ∧ 2 < 3 ∧ 77 ≠ 76 ∧ s.hall.fl.plate? 75 = some { p77 with id := 75 }
      ∧ (onePlate { p77 with location := .crane 1, hold := .quarantined }).hall.keyed
      ∧ (stateIn .run { floor with plates := [{ p77 with location := .station 1 }], stations := [st] }).hall.fl.station? 1 = some st
      ∧ st.state = .loaded ∧ st.cond ≠ .liftFailed := by
  obtain ⟨h1, h2, h3, h4, h5, h6, h7, h8, h9⟩ := run_keyed.2.1
  exact ⟨Or.inr (Or.inl rfl), ⟨run_keyed.1, ⟨by decide, by decide, h3, h4, h5, h6, h7, h8, h9⟩, run_keyed.2.2⟩, rfl, rfl, rfl,
    by decide, by decide, rfl, ⟨run_keyed.1, ⟨by decide, h2, h3, h4, h5, h6, h7, h8, h9⟩, run_keyed.2.2⟩, rfl, rfl, by decide⟩

/-- The hall in RUN with slot 1 of rack 1 as given and no plate in it. -/
def oneSlot (q : Slot) : State := stateIn .run { floor with plates := [p77], racks := [⟨1, true, [q]⟩] }
/-- An empty slot with its sensed state and transfer. -/
def slot1 (sensed : Sensed) (t : Transfer) : Slot := ⟨1, none, sensed, none, 0, .none, t, false⟩
def place (len : Nat) : Instr := .placeRemnant 9 1 1 3 160 k41207 len 2500 0 0 0

theorem witness_PlaceRemnantFillsTheSlot_unknown :
    run.onTurn (.placeRemnant 9 2 1 3 160 k41207 6000 2500 0 0 0) ∧ run.hall.working
      ∧ plateInRanges 3 160 k41207 6000 2500 0 0 0 ∧ run.hall.cfg.rack? 2 = none ∧ run.hall.fl.slot? 1 5 = none
      ∧ run.hall.cfg.grade? 4 = none := ⟨turn _ _ _, working_run, ranges _ _ _ (Or.inl rfl), by decide⟩
theorem witness_PlaceRemnantFillsTheSlot_full :
    let s := stateIn .run fullFloor
    s.onTurn (place 6000) ∧ s.hall.working ∧ (s.hall.cfg.rack? 1).isSome ∧ (s.hall.fl.slot? 1 1).isSome
      ∧ 96 ≤ s.hall.fl.plates.length := ⟨turn _ _ _, Or.inr (Or.inl rfl), by decide +kernel⟩
theorem witness_PlaceRemnantFillsTheSlot_taken :
    run.onTurn (place 6000) ∧ run.hall.working ∧ plateInRanges 3 160 k41207 6000 2500 0 0 0
      ∧ run.hall.cfg.rack? 1 = some ⟨1, 4, 4, 4000, 3000, 100000, 60000⟩
      ∧ run.hall.fl.slot? 1 1 = some ⟨1, some 78, .occupied, none, 0, .none, .none, false⟩
      ∧ run.hall.fl.plates.length < 96 := ⟨turn _ _ _, working_run, ranges _ _ _ (Or.inl rfl), by decide⟩
/-- A move whose drop is slot 1 of rack 1, in a crane's hands. -/
def inbound : Move := { move (.phase .toDrop) with kind := .rackTransfer, drop := .slot 1 1, crane := some 1 }
theorem witness_PlaceRemnantFillsTheSlot_crane_works :
    (oneSlot (slot1 .empty (.inbound 5))).hall.fl.slot? 1 1 = some (slot1 .empty (.inbound 5))
      ∧ (slot1 .empty (.inbound 5)).register = none ∧ (slot1 .empty (.inbound 5)).transfer = .inbound 5
      ∧ (stateIn .run { floor with plates := [p77], racks := [⟨1, true, [slot1 .empty .none]⟩], moves := [inbound] }).hall.fl.claimant
          1 1 = some 5
      ∧ (oneSlot (slot1 .empty .verifyOut)).hall.fl.claimant 1 1 = none := by decide +kernel
theorem witness_PlaceRemnantFillsTheSlot_too_large :
    (oneSlot (slot1 .occupied .none)).onTurn (place 6000) ∧ (oneSlot (slot1 .occupied .none)).hall.working
      ∧ (oneSlot (slot1 .occupied .none)).hall.cfg.rack? 1 = some ⟨1, 4, 4, 4000, 3000, 100000, 60000⟩
      ∧ (oneSlot (slot1 .occupied .none)).hall.fl.slot? 1 1 = some (slot1 .occupied .none) ∧ 4000 < 4001
      ∧ (4000 ≤ 4000 ∧ 3000 < 3001) ∧ (4000 ≤ 4000 ∧ 3000 ≤ 3000 ∧ 100000 < massOf (areaOf 4000 3000 none) 1500 7850) :=
  ⟨turn _ _ _, Or.inr (Or.inl rfl), by decide⟩
theorem witness_PlaceRemnantFillsTheSlot_accepted (sensed : Sensed) :
    (oneSlot (slot1 sensed .none)).onTurn (place 4000) ∧ (oneSlot (slot1 sensed .none)).hall.working
      ∧ plateInRanges 3 160 k41207 4000 2500 0 0 0
      ∧ (oneSlot (slot1 sensed .none)).hall.cfg.rack? 1 = some ⟨1, 4, 4, 4000, 3000, 100000, 60000⟩
      ∧ (oneSlot (slot1 sensed .none)).hall.fl.slot? 1 1 = some (slot1 sensed .none)
      ∧ (oneSlot (slot1 sensed .none)).hall.fl.claimant 1 1 = none ∧ 4000 ≤ 4000 ∧ 2500 ≤ 3000
      ∧ (4000 * 2500 * 160 * 7850 + 500000000) / 1000000000 ≤ 100000 := by
  refine ⟨turn _ _ _, Or.inr (Or.inl rfl), ?_, rfl, rfl, rfl, by decide⟩
  unfold plateInRanges
  decide

/-- The hall in RUN with the remnant of slot 1 missing. -/
def missing : State := stateIn .run { floor with
  plates := [p77, { p78 with hold := .missing }]
  racks := [⟨1, true, [⟨1, some 78, .empty, none, 0, .missingPlate, .none, false⟩]⟩] }
theorem witness_SlotsAreReconciled_acceptEmpty :
    missing.hall.working ∧ missing.onTurn (.acceptEmpty 9 1 1) ∧ missing.hall.fl.slot? 1 2 = none
      ∧ missing.hall.fl.slot? 1 1 = some ⟨1, some 78, .empty, none, 0, .missingPlate, .none, false⟩
      ∧ (∀ m ∈ missing.hall.fl.moves, m.load ≠ .plate 78)
      ∧ (stateIn .run { missing.hall.fl with moves := [move .waiting] }).hall.fl.moves.find? (fun m => m.load == .plate 78)
          = some (move .waiting)
      ∧ (run.hall.fl.slot? 1 4).map Slot.dispute = some .unexpectedObject :=
  ⟨Or.inr (Or.inl rfl), turn _ _ _, by decide⟩
theorem witness_SlotsAreReconciled_recheck :
    let s := oneSlot (slot1 .empty (.inbound 5))
    s.hall.working ∧ s.onTurn (.recheck 9 1 1) ∧ s.hall.fl.slot? 1 1 = some (slot1 .empty (.inbound 5))
      ∧ (slot1 .empty (.inbound 5)).transfer = .inbound 5 ∧ s.hall.fl.slot? 1 2 = none
      ∧ ∀ t, (slot1 .empty .verifyOut).transfer ≠ .inbound t ∧ (slot1 .empty .verifyOut).transfer ≠ .outbound t :=
  ⟨Or.inr (Or.inl rfl), turn _ _ _, by decide, rfl, by decide, fun t => by simp [slot1]⟩
theorem witness_SlotsAreReconciled_acceptObject :
    run.hall.working ∧ run.onTurn (.acceptObject 9 1 4 3) ∧ run.onTurn (.acceptObject 9 1 4 4) ∧ 4 ≠ 3 ∧ 0 ≠ 3 :=
  ⟨working_run, turn _ _ _, turn _ _ _, by decide⟩

/-! ## Stations, templates and counters -/

theorem witness_StationsAreHeldAndResumed :
    run.hall.sup.state ≠ .setup ∧ run.hall.keyed ∧ run.hall.fl.station? 2 = none
      ∧ run.hall.fl.station? 1 = some station ∧ station.hold.host = false ∧ station.entry = none
      ∧ run.onTurn (.stationHold 9 1) ∧ run.onTurn (.stationResume 9 1) ∧ run.onTurn (.consumablesChanged 9 1) :=
  ⟨by decide, run_keyed, by decide, by decide, rfl, rfl, turn _ _ _, turn _ _ _, turn _ _ _⟩
/-- A station with an entry in progress. -/
def burning : Station :=
  { station with
    state := .burning, bed := some 77, job := some 500, phase := some .burn
    entry := some ⟨1, .burn, 3, true, [], []⟩ }
theorem witness_StationsAreHeldAndResumed_entry :
    let s := stateIn .run { floor with stations := [burning] }
    s.hall.sup.state ≠ .setup ∧ s.hall.keyed ∧ s.hall.fl.station? 1 = some burning
      ∧ burning.entry = some ⟨1, .burn, 3, true, [], []⟩ ∧ s.onTurn (.consumablesChanged 9 1) :=
  ⟨by decide, by unfold Hall.keyed Tables.keyed Floor.keyed; decide +kernel, by decide, rfl, turn _ _ _⟩
theorem witness_StationsAreHeldAndResumed_already :
    (stateIn .run { floor with stations := [{ station with hold := { host := true } }] }).hall.fl.station? 1
      = some { station with hold := { host := true } } := by decide

/-- A station of a hall in RUN with a phase, its hold set, and a job that has the burn 1 to do. -/
def holdWork (st : Station) (n : Node) : Work :=
  work { floor with
    stations := [st], jobs := [job .active], line := { floor.line with nodes := [n, node 2 .crane, node 3 .crane, node 4 .rack] } }
def heldStation (st : StationState) (h : HoldSet) : Station :=
  { station with state := st, bed := some 77, job := some 500, phase := some .burn, hold := h }
theorem holdWork_keyed (st : Station) (n : Node) (hn : n.address = 1) : (holdWork st n).fl.keyed := by
  obtain ⟨h1, h2, h3, -, h5, h6, -, -, h9⟩ := run_keyed.2.1
  exact ⟨h1, h2, h3, by simp [holdWork, work, Work.begin], h5, h6,
    by simp [holdWork, work, Work.begin, hn, node], by simp [holdWork, work, Work.begin], h9⟩
/-- What every clause on a reason removed asks, with the reason HOST alone and with another. -/
theorem witness_StationsAreHeldAndResumed_removed (st : StationState) :
    let z := heldStation st { host := true }
    let y := heldStation st { host := true, frozen := true }
    ((holdWork z (node 1 .station)).fl.keyed ∧ (holdWork z (node 1 .station)).fl.station? 1 = some z
        ∧ z.hold.has .host = true ∧ z.hold.set .host false = {} ∧ z.state = st ∧ z.phase = some .burn)
      ∧ (holdWork y (node 1 .station)).fl.keyed ∧ (holdWork y (node 1 .station)).fl.station? 1 = some y
      ∧ y.hold.has .host = true ∧ y.hold.set .host false ≠ {} :=
  ⟨⟨holdWork_keyed _ _ rfl, rfl, rfl, rfl, rfl, rfl⟩, holdWork_keyed _ _ rfl, rfl, rfl, by simp [heldStation, HoldSet.set]⟩
/-- The next burn of the station's job, with a node that has room and one whose queue holds four orders. -/
theorem witness_StationsAreHeldAndResumed_ordered :
    let z := heldStation .held { host := true }
    let full : Node := { node 1 .station with orders := [⟨.park, 1, true⟩, ⟨.park, 2, false⟩, ⟨.park, 3, false⟩, ⟨.park, 4, false⟩] }
    (z.job.bind (holdWork z (node 1 .station)).fl.job? = some (job .active) ∧ nextBurn (job .active).entries = some 1
        ∧ z.outbox = [] ∧ z.parked = false ∧ z.wear < ctx.wearLimit 1 ∧ ctx.hall ≠ .frozen
        ∧ (holdWork z (node 1 .station)).fl.node? (ctx.stationAddress 1) = some (node 1 .station)
        ∧ (node 1 .station).orders.length < 4 ∧ (node 1 .station).nextNumber = some 1)
      ∧ (holdWork z full).fl.node? (ctx.stationAddress 1) = some full ∧ full.hasRoom = false := by decide +kernel
/-- A station that is neither HELD nor HOLD_PENDING, without a job and with one. -/
theorem witness_StationsAreHeldAndResumed_other :
    StationState.vacant ≠ .held ∧ StationState.vacant ≠ .holdPending
      ∧ (holdWork (heldStation .loaded { host := true }) (node 1 .station)).fl.leadJob 1 = some (job .active)
      ∧ (work floor).fl.leadJob 1 = none := by decide
/-- The stations that CONSUMABLES_CHANGED meets: HELD, with CONSUMABLES alone, with another reason, and with none. -/
theorem witness_StationsAreHeldAndResumed_consumables (st : Station) (h : st.num = 1) (he : st.entry = none) :
    let s := stateIn .run { floor with stations := [st] }
    s.hall.sup.state ≠ .setup ∧ s.hall.keyed ∧ s.hall.fl.station? 1 = some st ∧ s.onTurn (.consumablesChanged 9 1)
      ∧ st.entry = none ∧ ({ consumables := true } : HoldSet).consumables = true
      ∧ ({ ({ consumables := true, host := true } : HoldSet) with consumables := false } : HoldSet) ≠ {}
      ∧ StationState.vacant ≠ .held := by
  obtain ⟨h1, h2, h3, -, h5, h6, h7, h8, h9⟩ := run_keyed.2.1
  refine ⟨(fun h => nomatch h), ⟨run_keyed.1, ⟨h1, h2, h3, by simp [stateIn, hallIn], h5, h6, h7, h8, h9⟩, run_keyed.2.2⟩, ?_,
    turn _ _ _, he, rfl, by decide, by decide⟩
  simp [stateIn, hallIn, Floor.station?, Table.get, h]

/-- Six fields that come to 32 symbols: the counter 1 has width 4. -/
def wide : List RawField := [⟨1, [], 0⟩, ⟨3, [], 0⟩, ⟨6, [], 1⟩, ⟨5, [], 0⟩, ⟨7, [], 0⟩, ⟨0, [0x41, 0x42, 0x43, 0x44, 0x45], 0⟩]
def wideFields : List Field := [.job, .heat, .serial 1, .thick, .station, .literal [0x41, 0x42, 0x43, 0x44, 0x45]]

theorem witness_TemplatesAreDefinedAndDeleted_defined :
    run.onTurn (.defineTemplate 9 16 wide.length wide) ∧ run.hall.sup.state ≠ .frozen ∧ 1 ≤ 16 ∧ 16 ≤ 16
      ∧ wide.length ≤ 6 ∧ wide.map fieldOf = wideFields.map some ∧ (wideFields.filterMap Field.counter?).Nodup
      ∧ (wideFields.map (Field.worstWidth fun k => ((run.hall.fl.counter? k).map fun z => z.width.getD 8).getD 8)).sum ≤ 32
      ∧ ∀ j ∈ run.hall.fl.jobs, ∀ e ∈ j.entries, ¬ (e.kind = .part ∧ e.template = 16) :=
  ⟨turn _ _ _, by decide +kernel⟩
theorem witness_TemplatesAreDefinedAndDeleted_too_long :
    ([.heat, .partNo, .thick] : List Field).map some = ([⟨3, [], 0⟩, ⟨2, [], 0⟩, ⟨5, [], 0⟩] : List RawField).map fieldOf
      ∧ 32 < (([.heat, .partNo, .thick] : List Field).map
          (Field.worstWidth fun k => ((run.hall.fl.counter? k).map fun z => z.width.getD 8).getD 8)).sum := by decide +kernel
theorem witness_TemplatesAreDefinedAndDeleted_twice :
    run.onTurn (.defineTemplate 9 1 2 [⟨6, [], 1⟩, ⟨6, [], 1⟩])
      ∧ ([⟨6, [], 1⟩, ⟨6, [], 1⟩] : List RawField).map fieldOf = ([.serial 1, .serial 1] : List Field).map some
      ∧ ([.serial 1, .serial 1] : List Field) = [.serial 1] ++ Field.serial 1 :: []
      ∧ (([.serial 1] : List Field).filterMap Field.counter?).Nodup ∧ 1 ∈ ([.serial 1] : List Field).filterMap Field.counter? :=
  ⟨turn _ _ _, by decide⟩
theorem witness_TemplatesAreDefinedAndDeleted_in_use :
    let j : Job := { job .queued with entries := [⟨.part, a1, 16, 2000000, 3, .pending⟩] }
    let s := stateIn .run { floor with jobs := [j] }
    s.onTurn (.defineTemplate 9 16 0 []) ∧ j ∈ s.hall.fl.jobs ∧ (∃ e ∈ j.entries, e.kind = .part ∧ e.template = 16)
      ∧ ∀ k ∈ s.hall.fl.jobs, j.id ≤ k.id := ⟨turn _ _ _, by decide⟩

theorem witness_CountersAreSetForward :
    run.onTurn (.setCounter 9 1 2 12) ∧ run.hall.sup.state ≠ .frozen ∧ 1 ≤ 1 ∧ 1 ≤ 8 ∧ 1 ≤ 2 ∧ 2 ≤ 8 ∧ 12 < 10 ^ 2
      ∧ run.hall.fl.counter? 1 = some ⟨1, some 4, some 12, some 11, false, none⟩
      ∧ (11 ≤ 11 ∧ 11 < 12) ∧ run.hall.templateOver 1 2 = none ∧ run.hall.keyed :=
  ⟨turn _ _ _, by decide, by decide, by decide, by decide, by decide, by decide, by decide, by decide, by decide +kernel,
    run_keyed⟩
/-- A station held on the counter 1 and by HOST. -/
theorem witness_CountersAreSetForward_held :
    let st : Station := { station with exhausted := some 1, hold := { host := true, serialExhausted := true } }
    let s := stateIn .run { floor with stations := [st] }
    s.hall.keyed ∧ (work s.hall.fl).fl = s.hall.fl ∧ st ∈ s.hall.fl.stations
      ∧ ∀ z ∈ s.hall.fl.stations, z.exhausted = some 1 → ∃ r, r ≠ HoldReason.serialExhausted ∧ z.hold.has r = true := by
  obtain ⟨h1, h2, h3, -, h5, h6, h7, h8, h9⟩ := run_keyed.2.1
  refine ⟨⟨run_keyed.1, ⟨h1, h2, h3, by decide, h5, h6, h7, h8, h9⟩, run_keyed.2.2⟩, rfl, List.mem_singleton.2 rfl,
    fun z h _ => ⟨.host, by decide, ?_⟩⟩
  cases List.mem_singleton.1 h
  rfl
theorem witness_CountersAreSetForward_too_long :
    let s : State := { run with hall := { run.hall with
      templates := [⟨1, [.heat, .serial 1, .literal [0x41, 0x42, 0x43, 0x44, 0x45, 0x46, 0x47, 0x48, 0x49, 0x4A, 0x4B, 0x4C, 0x4D]]⟩] } }
    s.onTurn (.setCounter 9 1 8 12) ∧ s.hall.sup.state ≠ .frozen
      ∧ s.hall.fl.counter? 1 = some ⟨1, some 4, some 12, some 11, false, none⟩ ∧ s.hall.templateOver 1 8 = some 1 :=
  ⟨Or.inr rfl, by decide +kernel⟩

/-! ## Jobs -/

def part (area template : Nat) : RawEntry := ⟨0, a1, template, area, 16⟩
def separation : RawEntry := ⟨1, [], 0, 0, 1⟩
/-- The admission of the witnesses: job 65535 at station 1. -/
def admissionAt1 (plate declared len wid : Nat) (entries : List RawEntry) : Instr :=
  .admitJob 9 65535 1 plate 9 1 1 255 entries.length declared len wid 0 0 0 entries
/-- What every clause of ADMIT_JOB asks of its fields. -/
theorem witness_AdmissionsAreCheckedAndQueued_fields (st : HallState) (fl : Floor) (plate : Nat)
    (entries : List RawEntry) :
    (stateIn st fl).onTurn (admissionAt1 plate 1 2000 1100 entries)
      ∧ (stateIn st fl).hall.cfg.limits = some ⟨2000, 3, 5, 500, 500, 200⟩ ∧ 1 ≤ 65535 ∧ 65535 ≤ 65535 ∧ 1 ≤ 1 ∧ 1 ≤ 4
      ∧ 1 ≤ 1 ∧ 1 ≤ 1
      ∧ (1 = 1 → 200 ≤ 2000 ∧ 2000 ≤ 24000 ∧ 200 ≤ 1100 ∧ 1100 ≤ 4800 ∧ 0 ≤ 4
          ∧ (0 ≠ 0 → 100 ≤ 0 ∧ 0 + 100 ≤ 2000 ∧ 100 ≤ 0 ∧ 0 + 100 ≤ 1100)) :=
  ⟨turn _ _ _, rfl, by decide⟩
theorem witness_AdmissionsAreCheckedAndQueued_entries :
    ∀ e ∈ [part 115200000 16, part 1 0, separation], RawEntry.inRanges e := by
  simp [RawEntry.inRanges, part, separation]; decide
theorem witness_AdmissionsAreCheckedAndQueued_duplicate :
    ((stateIn .run { floor with jobs := [{ job .queued with id := 65535 }] }).hall.fl.job? 65535).isSome := by decide
theorem witness_AdmissionsAreCheckedAndQueued_station :
    run.hall.working ∧ run.hall.fl.job? 65535 = none ∧ run.hall.cfg.station? 4 = none
      ∧ run.hall.cfg.station? 1 = some ⟨1, 1, 12000, 3000, 400, 40000, 1000, 800, 37⟩ := ⟨working_run, by decide⟩
theorem witness_AdmissionsAreCheckedAndQueued_full :
    let s := stateIn .run { floor with jobs := [501, 502, 503, 504].map fun i => { job .queued with id := i } }
    s.hall.fl.job? 65535 = none ∧ 4 ≤ (s.hall.fl.jobs.filter fun j => j.station == 1).length := by decide
/-- Lists that check 5 passes and refuses: of parts alone, of parts with a SEPARATION last, with none, with one where no
remnant is declared, with a template that is not defined. -/
theorem witness_AdmissionsAreCheckedAndQueued_lists :
    (1 ≤ [part 1 0].length ∧ (0 = 0 ∧ ∀ e ∈ [part 1 0], e.kind = 0))
      ∧ (∃ ps sep, [part 1 0, separation] = ps ++ [sep] ∧ sep.kind = 1 ∧ ∀ e ∈ ps, e.kind = 0)
      ∧ ([] : List RawEntry).length = 0 ∧ 48 < (List.replicate 49 (part 1 0)).length
      ∧ ¬ (∀ e ∈ [part 1 0, separation], e.kind = 0)
      ∧ Table.get Template.id 16 run.hall.templates = none :=
  ⟨by decide, ⟨[part 1 0], separation, rfl, rfl, by decide⟩, rfl, by decide, by decide, rfl⟩
theorem witness_AdmissionsAreCheckedAndQueued_plate :
    run.hall.fl.plate? 79 = none ∧ run.hall.fl.plate? 77 = some p77 ∧ p77.hold = .free
      ∧ ({ p77 with hold := .missing } : Plate).hold ≠ .free
      ∧ (∃ k, ({ p77 with location := .crane 1 } : Plate).location = .crane k)
      ∧ (∃ n, ({ p77 with location := .station 2 } : Plate).location = .station n ∧ n ≠ 1)
      ∧ ¬ (∃ k, p77.location = .crane k) ∧ ¬ ∃ n, p77.location = .station n := by
  refine ⟨by decide, by decide, rfl, by decide, ⟨1, rfl⟩, ⟨2, rfl, by decide⟩, ?_, ?_⟩ <;> simp [p77]
/-- The plate 77 fits the bed, and plates one larger in a measure do not; the sums of check 9 at the plate's area. -/
theorem witness_AdmissionsAreCheckedAndQueued_sizes :
    (p77.len ≤ 12000 ∧ p77.wid ≤ 3000 ∧ p77.thickness ≤ 400) ∧ 12000 < ({ p77 with len := 12001 } : Plate).len
      ∧ 3000 < ({ p77 with wid := 3001 } : Plate).wid ∧ 400 < ({ p77 with thickness := 401 } : Plate).thickness
      ∧ ([part 12800000 0, separation].map RawEntry.area).sum + 2000 * 1100 ≤ p77.area
      ∧ p77.area < ([part 12800001 0, separation].map RawEntry.area).sum + 2000 * 1100 := by decide
theorem witness_AdmissionsAreCheckedAndQueued_remnant :
    (6000 < 6001) ∧ (6000 ≤ 6000 ∧ 2500 < 2501) ∧ (min 6000 499 < 500) ∧ (500 ≤ min 4000 500 ∧ 1999999 < 200 * 10000)
      ∧ (2000 ≤ p77.len ∧ 1100 ≤ p77.wid ∧ 500 ≤ min 2000 1100 ∧ 200 * 10000 ≤ 2000 * 1100) := by decide
theorem witness_AdmissionsAreCheckedAndQueued_lift :
    (∃ k ∈ run.hall.cfg.cranes, p77.mass ≤ min (k.swl - k.tare) (kmag k p77.thickness (run.hall.cfg.factor p77.grade)))
      ∧ ¬ ∃ k ∈ run.hall.cfg.cranes, 57601 ≤ min (k.swl - k.tare) (kmag k 160 (run.hall.cfg.factor 3)) := by decide

theorem working_withMoves (jobs : List Job) (moves : List Move) :
    (stateIn .run { floor with jobs := jobs, moves := moves }).hall.working := Or.inr (Or.inl rfl)
/-- A job whose staging move is 16, and the move. -/
def staging (pending : Bool) : Job := { job .staging with stagingTag := some 16, cancelPending := pending }
def fetch (st : MoveState) : Move := { move st with tag := 16, origin := .job 500, kind := .plateIn, load := .plate 77 }
/-- A job in close-out at a step. -/
def closing (q : CloseStep) (store skel : Option Nat) : Job :=
  { job .closing with closeOut := some ⟨q, store, skel, some 78, false, none, none, false, .complete⟩ }

theorem witness_CancellationsFollowTheState_queued :
    let s := stateIn .run { floor with jobs := [job .queued] }
    s.hall.working ∧ s.onTurn (.cancelJob 9 500) ∧ s.hall.fl.job? 501 = none ∧ s.hall.fl.job? 500 = some (job .queued)
      ∧ (job .queued).state = .queued ∧ (job .ready).state = .ready := ⟨working_withMoves _ _, turn _ _ _, by decide⟩
theorem witness_CancellationsFollowTheState_staging_waiting :
    let s := stateIn .run { floor with jobs := [staging false], moves := [fetch .waiting] }
    s.hall.working ∧ s.onTurn (.cancelJob 9 500) ∧ s.hall.fl.job? 500 = some (staging false)
      ∧ (staging false).state = .staging ∧ (staging false).stagingTag = some 16 ∧ (staging false).cancelPending = false
      ∧ s.hall.fl.move? 16 = some (fetch .waiting) ∧ (fetch .waiting).state = .waiting :=
  ⟨working_withMoves _ _, turn _ _ _, by decide⟩
theorem witness_CancellationsFollowTheState_staging_moving (pending : Bool) :
    let s := stateIn .run { floor with jobs := [staging pending], moves := [fetch .bound] }
    s.hall.working ∧ s.onTurn (.cancelJob 9 500) ∧ s.hall.fl.job? 500 = some (staging pending)
      ∧ (staging pending).state = .staging ∧ (staging pending).cancelPending = pending
      ∧ ∀ t, ¬ ((staging pending).stagingTag = some t ∧ ∃ m, s.hall.fl.move? t = some m ∧ m.state = .waiting) := by
  refine ⟨working_withMoves _ _, turn _ _ _, rfl, rfl, rfl, ?_⟩
  rintro t ⟨h, m, hm, hw⟩
  cases h
  have : (stateIn .run { floor with jobs := [staging pending], moves := [fetch .bound] }).hall.fl.move? 16
      = some (fetch .bound) := rfl
  cases (this.symm.trans hm); exact absurd hw (by decide)
theorem witness_CancellationsFollowTheState_closing :
    let s := stateIn .run { floor with jobs := [closing .store none none] }
    s.hall.working ∧ s.onTurn (.cancelJob 9 500) ∧ s.hall.fl.job? 500 = some (closing .store none none)
      ∧ (closing .store none none).state = .closing ∧ (closing .store none none).closeOut.isSome :=
  ⟨working_withMoves _ _, turn _ _ _, by decide⟩
theorem witness_CancellationsFollowTheState_active (st : StationState) :
    let s := stateIn .run { floor with jobs := [job .active], stations := [{ burning with state := st }] }
    s.hall.working ∧ s.onTurn (.cancelJob 9 500) ∧ s.hall.fl.job? 500 = some (job .active) ∧ (job .active).state = .active
      ∧ s.hall.fl.station? 1 = some { burning with state := st } := ⟨Or.inr (Or.inl rfl), turn _ _ _, rfl, rfl, rfl⟩
theorem witness_CancellationsFollowTheState_move (m : Move) (h : m.tag = 5) :
    let s := stateIn .run { floor with moves := [m] }
    s.hall.working ∧ s.onTurn (.cancelMove 9 5) ∧ 5 ≤ 31 ∧ s.hall.fl.move? 5 = some m ∧ s.hall.fl.move? 31 = none := by
  refine ⟨working_withMoves _ _, turn _ _ _, by decide, ?_, ?_⟩ <;>
    simp [stateIn, hallIn, floor, Floor.move?, Table.get, h]
theorem witness_CancellationsFollowTheState_moves :
    (∃ j, ({ fetch .bound with tag := 5 } : Move).origin = .job j) ∧ ({ move .bound with origin := .yield } : Move).origin = .yield
      ∧ (move .waiting).origin = .host ∧ (move .waiting).state = .waiting ∧ (move .bound).state = .bound
      ∧ (∃ p, (move (.phase .toPickup)).state = .phase p)
      ∧ ∃ p q, (move (.suspended .toDrop { breach := true })).state = .suspended p q :=
  ⟨⟨500, rfl⟩, rfl, rfl, rfl, rfl, ⟨_, rfl⟩, _, _, rfl⟩

/-- The hall in RUN with a job in close-out at station 1, the remnant 78 on its bed, and its moves. -/
def closeOut (q : CloseStep) (store skel : Option Nat) (moves : List Move) : State :=
  stateIn .run { floor with
    jobs := [closing q store skel], moves := moves
    stations := [{ station with state := .clearing, bed := some 78, job := some 500 }] }
theorem witness_CloseOutsAreEndedByTheHost (q : CloseStep) (store skel : Option Nat) (moves : List Move) :
    let s := closeOut q store skel moves
    s.hall.working ∧ (s.hall.cfg.station? 1).isSome ∧ s.hall.cfg.station? 2 = none
      ∧ s.hall.fl.leadJob 1 = some (closing q store skel)
      ∧ (closing q store skel).closeOut = some ⟨q, store, skel, some 78, false, none, none, false, .complete⟩
      ∧ s.hall.fl.station? 1 = some { station with state := .clearing, bed := some 78, job := some 500 }
      ∧ s.onTurn (.scrapRemnant 9 1) ∧ s.onTurn (.skeletonManual 9 1) :=
  ⟨Or.inr (Or.inl rfl), rfl, rfl, rfl, rfl, rfl, turn _ _ _, turn _ _ _⟩
/-- The move of the close-out in a crane's hands, and waiting. -/
theorem witness_CloseOutsAreEndedByTheHost_moves :
    (closeOut .store (some 16) none [fetch .bound]).hall.fl.move? 16 = some (fetch .bound)
      ∧ (fetch .bound).state ≠ .waiting
      ∧ (closeOut .skeleton none (some 16) [fetch .waiting]).hall.fl.move? 16 = some (fetch .waiting)
      ∧ (fetch .waiting).state = .waiting := by decide
theorem witness_CloseOutsAreEndedByTheHost_none :
    run.hall.working ∧ (run.hall.cfg.station? 1).isSome ∧ (∀ j, run.hall.fl.leadJob 1 = some j → j.closeOut = none)
      ∧ run.onTurn (.scrapRemnant 9 1) ∧ run.onTurn (.skeletonManual 9 1) :=
  ⟨working_run, rfl, (fun _ h => nomatch h), turn _ _ _, turn _ _ _⟩

/-! ## Moves and cranes -/

/-- A plate that lies in bay 2 and the hall with it and the given moves. -/
def p90 (hold : Hold) : Plate := { p77 with id := 90, location := .bay 2 1, hold := hold }
def submission (p : Plate) (moves : List Move) : State :=
  stateIn .run { floor with plates := [p], bays := [⟨1, [], 0, none⟩, ⟨2, [90], 0, none⟩], moves := moves }
theorem witness_MovesAreCheckedAndSubmitted (hold : Hold) (moves : List Move) :
    let s := submission (p90 hold) moves
    (s.onTurn (.submitMove 9 15 6 90 1 1 0 1 255) ∧ s.hall.working ∧ 15 ≤ 15 ∧ 1 ≤ 1
        ∧ (6 = 6 ∧ MoveKind.bayTransfer = .bayTransfer ∧ 1 = 1 ∧ Place.bay 1 = .bay 1))
      ∧ (∀ p, s.hall.fl.plate? 90 = some p → p.location.place ≠ some (.bay 1))
      ∧ s.hall.fl.plate? 90 = some (p90 hold) ∧ s.hall.fl.plate? 91 = none ∧ s.hall.fl.bay? 3 = none
      ∧ s.hall.fl.bay? 1 ≠ none ∧ s.hall.fl.slot? 1 9 = none ∧ (s.hall.fl.slot? 1 2).isSome := by
  refine ⟨⟨turn _ _ _, Or.inr (Or.inl rfl), by decide⟩, fun p h => ?_, rfl, rfl, rfl, by simp [submission, stateIn, hallIn, Floor.bay?, Table.get],
    rfl, rfl⟩
  have : (submission (p90 hold) moves).hall.fl.plate? 90 = some (p90 hold) := rfl
  cases (this.symm.trans h); exact (by decide : some (Place.bay 2) ≠ some (Place.bay 1))
theorem witness_MovesAreCheckedAndSubmitted_tag :
    (submission (p90 .free) [{ move .waiting with tag := 15 }]).hall.fl.move? 15 = some { move .waiting with tag := 15 }
      ∧ (submission (p90 .free) []).hall.fl.move? 15 = none
      ∧ (submission (p90 .free) [{ move .waiting with load := .plate 90 }]).hall.fl.moves.find? (fun m => m.load == .plate 90)
          = some { move .waiting with load := .plate 90 } := by decide
theorem witness_MovesAreCheckedAndSubmitted_holds :
    (p90 .missing).hold = .missing ∧ ((p90 .quarantined).hold = .quarantined ∧ MoveKind.bayTransfer ≠ .remnantScrap)
      ∧ (∃ j, (p90 (.committed 500)).hold = .reserved j ∨ (p90 (.committed 500)).hold = .committed j)
      ∧ (∃ b l, (p90 .free).location = .bay b l ∧ MoveKind.bayTransfer ≠ .rackTransfer)
      ∧ ¬ (∃ r n, ({ p77 with location := .crane 1 } : Plate).location = .rack r n)
      ∧ ¬ ∃ b l, ({ p77 with location := .crane 1 } : Plate).location = .bay b l := by
  refine ⟨rfl, ⟨rfl, by decide⟩, ⟨500, Or.inr rfl⟩, ⟨2, 1, rfl, by decide⟩, ?_, ?_⟩ <;> simp
theorem witness_MovesAreCheckedAndSubmitted_rack :
    run.hall.cfg.rack? 1 = some ⟨1, 4, 4, 4000, 3000, 100000, 60000⟩ ∧ p78.location = .rack 1 1
      ∧ (p78.len ≤ 4000 ∧ p78.wid ≤ 3000 ∧ p78.mass ≤ 100000) ∧ 4000 < ({ p78 with len := 4001 } : Plate).len
      ∧ 3000 < ({ p78 with wid := 3001 } : Plate).wid ∧ 100000 < ({ p78 with mass := 100001 } : Plate).mass := by decide
theorem witness_MovesAreCheckedAndSubmitted_able :
    let s := submission (p90 .free) []
    (∃ q ∈ s.hall.cfg.cranes, s.hall.cfg.placeAt (.bay 2) = some 20000 ∧ (q.limitMin ≤ 20000 ∧ 20000 ≤ q.limitMax)
        ∧ s.hall.cfg.placeAt (.bay 1) = some 10000 ∧ (q.limitMin ≤ 10000 ∧ 10000 ≤ q.limitMax)
        ∧ (p90 .free).mass ≤ min (q.swl - q.tare) (kmag q 160 (s.hall.cfg.factor 3)))
      ∧ ∀ q ∈ s.hall.cfg.cranes, ¬ 57601 ≤ min (q.swl - q.tare) (kmag q 160 (s.hall.cfg.factor 3)) := by decide

/-- The hall in RUN with crane 1 as given. -/
def oneCrane (k : Crane) (stopped : Bool) : State :=
  stateIn .run { floor with cranes := [k, crane 2 80000 76000 84000], runwayStopped := stopped }
def degraded : Crane := { crane 1 20000 16000 24000 with health := .degraded }
def faulted : Crane := { crane 1 20000 16000 24000 with health := .faulted, fault := some 7 }
theorem witness_CranesAreRestoredAndTheRunwayResumes_restore (k : Crane) (h : k.num = 1) :
    let s := oneCrane k false
    s.onTurn (.restoreCrane 9 1) ∧ s.hall.working ∧ s.hall.fl.crane? 3 = none ∧ s.hall.fl.crane? 1 = some k := by
  refine ⟨turn _ _ _, Or.inr (Or.inl rfl), ?_, ?_⟩ <;>
    simp [oneCrane, stateIn, hallIn, Floor.crane?, Table.get, h, crane, Crane.initial]
theorem witness_CranesAreRestoredAndTheRunwayResumes_cranes :
    (crane 1 20000 16000 24000).health = .normal ∧ (Crane.initial 1).health = .offline
      ∧ (degraded.health = .degraded ∧ degraded.up = true ∧ (oneCrane degraded false).hall.ctx.within degraded = true
          ∧ degraded.bound = none)
      ∧ ({ degraded with up := false } : Crane).up = false
      ∧ (faulted.health = .faulted ∧ faulted.up = true ∧ faulted.cleared = false ∧ faulted.fault = some 7)
      ∧ (({ faulted with cleared := true } : Crane).cleared = true)
      ∧ (oneCrane degraded false).hall.ctx.within { degraded with position := some 20001 } = false := by decide
theorem witness_CranesAreRestoredAndTheRunwayResumes_resume :
    let s := oneCrane (crane 1 20000 16000 24000) true
    s.onTurn (.runwayResume 9) ∧ s.hall.sup.state = .run ∧ s.hall.fl.runwayStopped = true
      ∧ (∀ k ∈ s.hall.fl.cranes, s.hall.ctx.within k = true) ∧ s.hall.keyed ∧ run.hall.fl.runwayStopped = false :=
  ⟨turn _ _ _, rfl, rfl, by decide, by unfold Hall.keyed Tables.keyed Floor.keyed; decide +kernel, rfl⟩
theorem witness_CranesAreRestoredAndTheRunwayResumes_breach :
    let s := oneCrane (crane 1 20001 16000 24000) true
    s.onTurn (.runwayResume 9) ∧ s.hall.sup.state = .run ∧ s.hall.fl.runwayStopped = true
      ∧ s.hall.fl.cranes.find? (fun k => !s.hall.ctx.within k) = some (crane 1 20001 16000 24000) :=
  ⟨turn _ _ _, rfl, rfl, by decide⟩

/-! ## Timer expiries -/

theorem witness_ExpiriesEndWhatWaits_reservation :
    let s := stateIn .run { floor with plates := [{ p77 with hold := .reserved 500 }], jobs := [job .queued] }
    s.hall.fl.job? 500 = some (job .queued) ∧ (job .queued).timer.state = .running ∧ (job .queued).timer.code ≠ 0
      ∧ s.hall.fl.plate? (job .queued).plate = some { p77 with hold := .reserved 500 } := by decide
def parkRuns (parked : Bool) : Station := { station with park := ⟨37, 1, .running⟩, parked := parked }
theorem witness_ExpiriesEndWhatWaits_park (parked : Bool) :
    let s := stateIn .run { floor with stations := [parkRuns parked] }
    s.hall.fl.station? 1 = some (parkRuns parked) ∧ (parkRuns parked).park.state = .running
      ∧ (parkRuns parked).park.code ≠ 0 ∧ (parkRuns parked).outbox = [] ∧ (parkRuns parked).parked = parked
      ∧ (work s.hall.fl).fl = s.hall.fl ∧ ctx.hall ≠ .frozen
      ∧ s.hall.fl.node? (ctx.stationAddress 1) = some (node 1 .station)
      ∧ (node 1 .station).orders.length < 4 ∧ (node 1 .station).nextNumber = some 1 :=
  ⟨rfl, rfl, by decide +revert, rfl, rfl, rfl, by decide, rfl, by decide⟩
/-- A queue that holds four orders has no room. -/
def fullNode : Node :=
  { node 1 .station with orders := [⟨.park, 1, true⟩, ⟨.park, 2, false⟩, ⟨.park, 3, false⟩, ⟨.park, 4, false⟩], lastAssigned := 4 }
theorem witness_ExpiriesEndWhatWaits_park_waits :
    let s := stateIn .run { floor with
      stations := [parkRuns false], line := { floor.line with nodes := [fullNode, node 2 .crane, node 3 .crane, node 4 .rack] } }
    s.hall.fl.node? (ctx.stationAddress 1) = some fullNode ∧ fullNode.hasRoom = false := by decide +kernel
/-- A hall FROZEN with its timers standing, and its next millisecond. -/
theorem witness_ExpiriesEndWhatWaits_frozen :
    let s := frozenFrom .run false floor
    s.hall.sup.state = .frozen ∧ s.hall.fl.timersStand ∧ step s = .next s.tick ∧ s.tick.hall.sup.state = .frozen :=
  ⟨rfl, by unfold Floor.timersStand; decide, rfl, rfl⟩
/-- The queue of a node: a number after 15, one passed over, an order taken, one withdrawn and one that is not there. -/
theorem witness_ExpiriesEndWhatWaits_queue :
    let n : Node := { node 1 .station with
      orders := [⟨.park, 15, true⟩, ⟨.mark 2 a1, 1, false⟩], lastAssigned := 1, lastTaken := 2, unsettled := [3] }
    n.hand .park = some (4, { n with orders := n.orders ++ [⟨.park, 4, false⟩], lastAssigned := 4 })
      ∧ ({ node 1 .station with lastAssigned := 15 } : Node).nextNumber = some 1
      ∧ (n.orders.length < 4 ∧ n.unsettled.length ≤ 10)
      ∧ (n.orders = ⟨.park, 15, true⟩ :: [⟨.mark 2 a1, 1, false⟩]) ∧ (node 1 .station).orders = []
      ∧ (∀ q ∈ n.orders, q.number ≠ 14)
      ∧ n.orders = [⟨.park, 15, true⟩] ++ ⟨.mark 2 a1, 1, false⟩ :: [] ∧ (n.orders.map QueuedOrder.number).Nodup
      ∧ ({ ctx with hall := .frozen } : Ctx).hall = .frozen := by decide +kernel
theorem witness_ExpiriesEndWhatWaits_move (st : MoveState) (h : st = .waiting ∨ st = .bound) :
    let s := stateIn .run { floor with moves := [move st] }
    s.hall.fl.move? 5 = some (move st) ∧ (move st).wait.state = .running ∧ (move st).wait.code ≠ 0
      ∧ ((move st).state = .waiting ∨ (move st).state = .bound) := ⟨rfl, rfl, by simp [move], h⟩

/-! ## The hall line -/

/-- The hall in RUN with its line in a given condition. -/
def lineIn (f : Line → Line) : State := stateIn .run { floor with line := f floor.line }
theorem polled (due : List Nat) (h : ∀ p ∈ due, p = 1 ∨ p = 2 ∨ p = 3 ∨ p = 4) : run.hall.polled due := by
  intro p hp
  obtain rfl | rfl | rfl | rfl := h p hp
  · exact ⟨⟨1, 1, .station, 1, 0⟩, node 1 .station, by decide, by decide⟩
  · exact ⟨⟨2, 2, .crane, 1, 0⟩, node 2 .crane, by decide, by decide⟩
  · exact ⟨⟨3, 3, .crane, 1, 0⟩, node 3 .crane, by decide, by decide⟩
  · exact ⟨⟨4, 4, .rack, 2, 0⟩, node 4 .rack, by decide, by decide⟩

theorem witness_LineEventsCarryTheVisitsOn_gap :
    let s := lineIn fun l => { l with gap := true, round := 63 }
    s.hall.recordInv ∧ s.hall.fl.line.gap = true ∧ s.hall.fl.line.broadcast = .none
      ∧ (s.hall.cfg.polls.filter fun e => ((63 + 1) % 64) % e.repetition == e.base).map PollEntry.position = [1, 2, 3, 4]
      ∧ run.hall.polled [1, 2, 3, 4] :=
  ⟨by unfold Hall.recordInv; decide +kernel, rfl, rfl, by decide, polled _ (by decide)⟩
theorem witness_LineEventsCarryTheVisitsOn_gap_in_broadcast :
    let s := lineIn fun l => { l with gap := true, broadcast := .window }
    s.hall.recordInv ∧ s.hall.fl.line.gap = true ∧ s.hall.fl.line.broadcast ≠ .none :=
  ⟨by unfold Hall.recordInv; decide +kernel, rfl, by decide⟩
theorem witness_LineEventsCarryTheVisitsOn_sent :
    let s := lineIn fun l => { l with visit := some ⟨1, false, pollFrame 1, false⟩ }
    s.hall.recordInv ∧ s.hall.fl.line.visit = some ⟨1, false, pollFrame 1, false⟩ :=
  ⟨by unfold Hall.recordInv; decide +kernel, rfl⟩
theorem witness_LineEventsCarryTheVisitsOn_broadcast :
    let s := lineIn fun l => { l with broadcast := .sending, broadcastPending := true }
    s.hall.recordInv ∧ s.hall.fl.line.broadcast = .sending := ⟨by unfold Hall.recordInv; decide +kernel, rfl⟩
theorem witness_LineEventsCarryTheVisitsOn_window (pending gap : Bool) :
    let s := lineIn fun l => { l with broadcast := .window, broadcastPending := pending, gap := gap, due := [4] }
    s.hall.recordInv ∧ s.hall.fl.line.broadcast = .window ∧ s.hall.fl.line.broadcastPending = pending
      ∧ s.hall.fl.line.gap = gap ∧ run.hall.polled s.hall.fl.line.due := by
  refine ⟨?_, rfl, rfl, rfl, polled _ (fun p h => by simp [lineIn, stateIn, hallIn] at h; omega)⟩
  unfold Hall.recordInv
  decide +revert
theorem witness_LineEventsCarryTheVisitsOn_frames :
    ({ node 2 .crane with stop := true } : Node).stop = true
      ∧ (({ node 1 .station with orders := [⟨.park, 1, false⟩] } : Node).orders = ⟨.park, 1, false⟩ :: []
          ∧ (node 1 .station).stop = false ∧ (node 1 .station).health = .up ∧ HallState.run ≠ .frozen)
      ∧ ({ node 1 .station with health := .lost } : Node).health ≠ .up ∧ (node 1 .station).orders = [] := by decide

/-- A visit to the node at address 1 whose report is awaited. -/
def visited (n : Node) (pending : Bool) : State :=
  lineIn fun l => { l with
    nodes := [n], due := [2], visit := some ⟨1, false, pollFrame 1, true⟩, broadcastPending := pending }
theorem witness_ReportsAreJudged_visit (n : Node) (h : n.address = 1) (pending : Bool) :
    (visited n pending).hall.fl.line.visit = some ⟨1, false, pollFrame 1, true⟩
      ∧ (visited n pending).hall.fl.node? 1 = some n ∧ (visited n pending).hall.fl.line.broadcastPending = pending := by
  refine ⟨rfl, ?_, rfl⟩
  simp [visited, lineIn, stateIn, hallIn, Floor.node?, Table.get, h]
theorem witness_ReportsAreJudged_polled :
    let s := lineIn fun l => { l with due := [2], visit := some ⟨1, false, pollFrame 1, true⟩ }
    s.hall.fl.node? 1 = some (node 1 .station) ∧ run.hall.polled [2] := ⟨by decide, polled _ (by decide)⟩
/-- The characters of a station's report with its 17 status bytes 0, and of a crane's. -/
def reportOf (kind : Byte) (rest : List Byte) : List LineChar :=
  let content := BitVec.ofNat 8 (rest.length + 4) :: 1 :: kind :: 0 :: rest
  lineChars (content ++ encCrc (crc16 content))
theorem witness_ReportsAreJudged_reports :
    nodeKindOf 1 = some .station ∧ nodeKindOf 2 = some .crane
      ∧ NodeKind.station.statusBytes ≤ (List.replicate 251 (0 : Byte)).length ∧ (List.replicate 251 (0 : Byte)).length ≤ 251
      ∧ (judge 1 (reportOf 1 (List.replicate 30 0))).map Report.kind = some .station
      ∧ (judge 1 (reportOf 2 (List.replicate 30 0))).map Report.kind = some .crane
      ∧ judge 1 (reportOf 4 (List.replicate 30 0)) = none := by decide +kernel

/-! ## Slots, wear and lifts -/

/-- A slot with its candidate and count. -/
def slotWith (candidate : Option Sensed) (agree : Nat) (t : Transfer) (register : Option Nat) : Slot :=
  ⟨1, register, .occupied, candidate, agree, .none, t, false⟩
theorem witness_SlotsAreDebouncedAndEvaluated (s : Slot) (h : s.num = 1) :
    (work { floor with racks := [⟨1, true, [s]⟩] }).fl.slot? 1 1 = some s ∧ Sensed.empty ≠ .unknown := by
  refine ⟨?_, by decide⟩
  simp [work, Work.begin, Floor.slot?, Floor.rack?, Table.get, h]
theorem witness_SlotsAreDebouncedAndEvaluated_clauses :
    (¬ ((slotWith none 0 .none none).transfer = .verifyIn ∨ (slotWith none 0 .none none).transfer = .verifyOut
          ∨ (slotWith none 0 .none none).recheck = true) ∧ Sensed.occupied = (slotWith none 0 .none none).sensed)
      ∧ (Sensed.empty ≠ (slotWith none 0 .none none).sensed ∧ (slotWith none 0 .none none).candidate ≠ some .empty)
      ∧ ((slotWith none 0 .verifyIn none).transfer = .verifyIn ∧ (slotWith none 0 .verifyIn none).agree = 0)
      ∧ ((slotWith (some .empty) 1 .none (some 78)).candidate = some .empty ∧ 1 ≤ (slotWith (some .empty) 1 .none (some 78)).agree
          ∧ (slotWith (some .empty) 1 .none (some 78)).register = some 78 ∧ (work floor).fl.plate? 78 = some p78
          ∧ (slotWith (some .empty) 1 .none (some 78)).dispute ≠ .missingPlate)
      ∧ (slotWith (some .empty) 1 (.outbound 5) none).transfer = .outbound 5
      ∧ (slotWith (some .occupied) 1 .verifyIn (some 78)).candidate = some .occupied := by decide

theorem witness_BurnResultsChargeTheWear :
    let w := work { floor with stations := [{ burning with wear := 65535 }] }
    w.fl.station? 1 = some { burning with wear := 65535 } ∧ burning.entry = some ⟨1, .burn, 3, true, [], []⟩
      ∧ ({ burning with wear := 65535 } : Station).bed.bind w.fl.plate? = some p77 ∧ (65535 : Nat) ≤ 65535 := by decide
theorem witness_BurnResultsChargeTheWear_mark :
    let st : Station := { burning with state := .marking, phase := some .mark, entry := some ⟨1, .mark, 3, true, a1, []⟩ }
    (work { floor with stations := [st] }).fl.station? 1 = some st ∧ st.bed.bind (work floor).fl.plate? = some p77 := by decide
theorem witness_BurnResultsChargeTheWear_ranges :
    (30 ≤ 30 ∧ 1500 ≤ 1500 ∧ 255 < 256 ∧ 65535 < 65536) ∧ 65369 + 166 ≤ 65535 := by decide

/-- A move of the plate 77 in its lift check. -/
def lifting : Move := { move (.phase .liftCheck) with load := .plate 77, pickup := some (.bay 1), crane := some 1 }
theorem witness_LiftsAreCheckedByTheLoadCell_figures :
    (work floor).fl.loadFigures lifting.load = some (18840, 160, 3)
      ∧ ctx.cfg.crane? 1 = some ⟨1, 2, 120000, 18000, 90000, 250, 40, 4000, 0, 95000⟩
      ∧ ctx.cfg.limits = some ⟨2000, 3, 5, 500, 500, 200⟩ := by decide
/-- The allowance is 57,600 and the tolerance 942: 5,761, 1,979 and 1,978 kg. -/
theorem witness_LiftsAreCheckedByTheLoadCell_readings :
    let allowed := min (120000 - 18000)
      (kmag ⟨1, 2, 120000, 18000, 90000, 250, 40, 4000, 0, 95000⟩ 160 (ctx.cfg.factor 3))
    let tol := max 500 (18840 * 5 / 100)
    allowed < 5761 * 10 ∧ (1979 * 10 ≤ allowed ∧ 18840 + tol < 1979 * 10)
      ∧ (1978 * 10 ≤ allowed ∧ 18840 ≤ 1978 * 10 + tol ∧ 1978 * 10 ≤ 18840 + tol)
      ∧ (1789 * 10 + tol < 18840) := by decide
theorem witness_LiftsAreCheckedByTheLoadCell_plate :
    let w := work { floor with moves := [lifting] }
    lifting.load = .plate 77 ∧ w.fl.plate? 77 = some p77 ∧ lifting.origin = .host ∧ p77.hold = .free
      ∧ lifting.kind ≠ .remnantStore ∧ w.fl.move? lifting.tag = some lifting := by decide

/-- Crane 1 in its lift check, with the move 5. -/
def lifter : Crane := { crane 1 20000 4000 94000 with bound := some 5, activity := .moving }
/-- A plate of the move in its lift check where it lies, with its hold, the jobs and the stations. -/
def liftWork (m : Move) (p : Plate) (jobs : List Job) (stations : List Station) (bays : List Bay) (racks : List Rack) : Work :=
  work { floor with
    plates := [p], moves := [m], cranes := [lifter, crane 2 80000 76000 84000], jobs := jobs, stations := stations, bays := bays
    racks := racks }
theorem liftWork_keyed (m : Move) (p : Plate) (j : Job) (st : Station) (b : Bay) (r : Rack) :
    (liftWork m p [j] [st] [b] [r]).fl.keyed := by
  obtain ⟨-, -, -, -, h5, -, h7, -, -⟩ := run_keyed.2.1
  exact ⟨by simp [liftWork, work, Work.begin], by simp [liftWork, work, Work.begin], by simp [liftWork, work, Work.begin],
    by simp [liftWork, work, Work.begin], h5, by simp [liftWork, work, Work.begin, lifter, crane, Crane.initial], h7,
    by simp [liftWork, work, Work.begin], by simp [liftWork, work, Work.begin]⟩
/-- What the clauses on a failure and a pass ask of the move, the crane and the plate. -/
theorem witness_LiftsAreCheckedByTheLoadCell_lift (h : Hold) (l : Location) (j : Job) (st : Station) (b : Bay) (r : Rack) :
    let p : Plate := { p77 with hold := h, location := l }
    let w := liftWork lifting p [j] [st] [b] [r]
    w.fl.keyed ∧ lifting.crane = some 1 ∧ w.fl.crane? 1 = some lifter ∧ lifter.outbox.length ≤ 3
      ∧ w.fl.move? lifting.tag = some lifting ∧ lifting.load = .plate 77 ∧ w.fl.plate? 77 = some p
      ∧ lifting.origin = .host ∧ p.hold = h ∧ p.location = l := ⟨liftWork_keyed _ _ _ _ _ _, rfl, rfl, by decide, rfl, rfl, rfl, rfl, rfl, rfl⟩
/-- The places a load leaves: a bed, a bay's stack that the move claims, and a slot. -/
theorem witness_LiftsAreCheckedByTheLoadCell_places :
    let st : Station := { station with state := .loaded, bed := some 77 }
    let q : Slot := ⟨1, some 77, .occupied, none, 0, .none, .outbound 5, false⟩
    (Location.station 1 = .station 1 ∧ (liftWork lifting p77 [job .active] [st] [⟨1, [77], 0, some 5⟩] [⟨1, true, [q]⟩]).fl.station? 1
          = some st)
      ∧ (p77.location = .bay 1 1
          ∧ (liftWork lifting p77 [job .active] [st] [⟨1, [77], 0, some 5⟩] [⟨1, true, [q]⟩]).fl.bay? 1 = some ⟨1, [77], 0, some 5⟩)
      ∧ (liftWork lifting p77 [job .active] [st] [⟨1, [77], 0, some 5⟩] [⟨1, true, [q]⟩]).fl.slot? 1 1 = some q := by decide
/-- The move of a job: the one that fetches its plate, and the one that stores its remnant. -/
theorem witness_LiftsAreCheckedByTheLoadCell_jobs :
    let j := closing .store (some 5) none
    let m : Move := { lifting with origin := .job 500, kind := .remnantStore, load := .plate 78, pickup := some (.station 1), drop := .slot 1 2 }
    let st : Station := { station with state := .clearing, bed := some 78, job := some 500 }
    let w := liftWork m { p78 with location := .station 1 } [j] [st] [⟨1, [], 0, none⟩] [⟨1, true, []⟩]
    (({ lifting with origin := .job 500, kind := .plateIn } : Move).kind ≠ .remnantStore
        ∧ ({ lifting with origin := .job 500, kind := .plateIn } : Move).kind ≠ .skeletonOut)
      ∧ w.fl.keyed ∧ m.crane = some 1 ∧ w.fl.crane? 1 = some lifter ∧ w.fl.move? m.tag = some m ∧ m.origin = .job 500
      ∧ m.kind = .remnantStore ∧ w.fl.job? 500 = some j ∧ w.fl.station? j.station = some st ∧ m.drop ≠ .station j.station
      ∧ m.load = .plate 78 ∧ w.fl.plate? 78 = some { p78 with location := .station 1 }
      ∧ j.closeOut = some ⟨.store, some 5, none, some 78, false, none, none, false, .complete⟩ :=
  ⟨by decide, liftWork_keyed _ _ _ _ _ _, rfl, rfl, rfl, rfl, rfl, rfl, rfl, by decide, rfl, rfl, rfl⟩

theorem witness_MagnetCapacityFollowsTheFormula :
    let c : CraneCfg := ⟨1, 2, 120000, 18000, 90000, 250, 40, 4000, 0, 95000⟩
    (39 < c.tmin ∧ c.tmin ≤ 40 ∧ 100 ≠ 0 ∧ 0 < c.tfull ∧ c.tfull ≤ 250)
      ∧ (c.cm ≤ 2000000 ∧ 100 ≤ 100 ∧ c.tfull ≤ 1500) ∧ c.cm = 90000 ∧ c.tfull = 250 ∧ c.tmin = 40 := by decide

/-! ## Invariants -/

theorem witness_HostLinkInvariantIsKept :
    let s := sendingReply fun k => { k with input := [served 1, waiting 2] }
    s.link.Inv ∧ s.link.assembling ∧ step s = .next s.tick := by
  refine ⟨⟨by unfold HostLink.bounded; decide, ?_, ?_⟩, Or.inl rfl, rfl⟩
  · unfold servedFirst; decide
  · intro _; decide +kernel
theorem witness_HostLinkInvariantIsKept_assembling :
    (withLink fun k => { k with rx := [0xA7, 0, 2] }).link.assembling := Or.inr ⟨[0, 2], rfl, by simp [assemble]⟩
theorem witness_HallRecordInvariantIsKept : run.hall.recordInv ∧ step run = .next run.tick := ⟨run_recordInv, rfl⟩
/-- Two grants S apart: crane 1 to 24,000, crane 2 from 29,000. -/
theorem witness_CranesStaySeparated :
    let s := stateIn .run { floor with cranes := [crane 1 20000 16000 24000, crane 2 33000 29000 37000] }
    s.hall.cranesInv ∧ step s = .next s.tick := by
  refine ⟨⟨fun a b ha hb => ?_, by decide, by decide, by decide, (fun m h => nomatch h), ?_⟩, rfl⟩
  · cases ha; cases hb; decide
  · rintro (h | ⟨h, -⟩) <;> exact absurd h (by decide)
theorem witness_PlateFiguresAreKept : run.hall.platesInv ∧ step run = .next run.tick ∧ p77 ∈ run.hall.fl.plates
    ∧ run.hall.cfg.grade? p77.grade = some ⟨3, ah36, 7850, true, 100⟩ := by
  refine ⟨⟨by unfold Plate.figuresHold; decide +kernel, ?_⟩, rfl, by decide, by decide⟩
  rintro (h | ⟨h, -⟩) <;> exact absurd h (by decide)
theorem witness_TablesStayKeyedAndCountersRunUp :
    run.hall.keyed ∧ (∀ c ∈ run.hall.fl.counters, c.runsUp) ∧ step run = .next run.tick := by
  refine ⟨run_keyed, ?_, rfl⟩
  intro c hc
  simp only [run, stateIn, hallIn, floor, Floor.empty, List.map, Counter.unset, Table.put] at hc
  simp only [Nat.reduceLT, ite_true, ite_false, List.mem_cons, List.not_mem_nil, or_false] at hc
  rcases hc with rfl | rfl | rfl | rfl | rfl | rfl | rfl | rfl <;>
    simp [Counter.runsUp, Counter.worstWidth]
theorem witness_InvariantsHoldAtReset : exec (.reset true true) run = .next (after (.reset true true) run) := rfl

end Sys2Proof.Tests
end

section
/-! SUPPORT. SET_STATION, SET_CRANE and SET_RACK (R43, R102, R21): when their fields pass, and what each then answers. -/
namespace Sys2Proof.Machine

/-! ## Fields within their ranges -/

theorem stationTests_pass {c : StationCfg} (hn : 1 ≤ c.num ∧ c.num ≤ 4) (ha : c.address ≤ 30)
    (hl : 200 ≤ c.bedL ∧ c.bedL ≤ 24000) (hw : 200 ≤ c.bedW ∧ c.bedW ≤ 4800) (ht : 30 ≤ c.maxT ∧ c.maxT ≤ 1500)
    (hp : c.position ≤ 400000) (hlim : 100 ≤ c.wearLimit ∧ c.wearLimit ≤ 60000) (hwarn : c.warnLevel ≤ c.wearLimit)
    (hcode : c.parkCode ≤ 255) : ∀ b ∈ stationTests c, b = true := by
  simp [stationTests, inRange, *]

theorem craneTests_pass {c : CraneCfg} (hn : 1 ≤ c.num ∧ c.num ≤ 2) (ha : c.address ≤ 30)
    (hswl : 100 ≤ c.swl ∧ c.swl ≤ 200000) (htare : c.tare ≤ 199999) (hcm : c.cm ≤ 200000)
    (hfull : 30 ≤ c.tfull ∧ c.tfull ≤ 1500) (hmin : 30 ≤ c.tmin ∧ c.tmin ≤ c.tfull)
    (hspan : 1000 ≤ c.halfSpan ∧ c.halfSpan ≤ 15000) (hlim : c.limitMin ≤ c.limitMax) (hmax : c.limitMax ≤ 400000) :
    ∀ b ∈ craneTests c, b = true := by
  have hlimit : c.limitMin ≤ 400000 := Nat.le_trans hlim hmax
  simp [craneTests, inRange, *]

theorem rackTests_pass {c : RackCfg} (hn : 1 ≤ c.num ∧ c.num ≤ 4) (ha : 1 ≤ c.address ∧ c.address ≤ 30)
    (hs : c.count = 0 ∨ (4 ≤ c.count ∧ c.count ≤ 16)) (hl : 200 ≤ c.maxL ∧ c.maxL ≤ 24000)
    (hw : 200 ≤ c.maxW ∧ c.maxW ≤ 4800) (hm : 10 ≤ c.maxMass ∧ c.maxMass ≤ 150000) (hp : c.position ≤ 400000) :
    ∀ b ∈ rackTests c, b = true := by
  simp [rackTests, inRange, *]

/-! ## The answers in SETUP -/

/-- In SETUP, with its fields within their ranges, a configuration request comes to its own effect. -/
theorem Hall.setup_checked {h : Hall} (hs : h.sup.state = .setup) {tests : List Bool} (ht : ∀ b ∈ tests, b = true)
    (a : Answer) : h.whenIn [.setup] (h.checked tests a) = a := by
  rw [Hall.whenIn_mem (by simp [hs]), Hall.checked_pass ht]

theorem Hall.setStation_deletes {h : Hall} {c : StationCfg} (hs : h.sup.state = .setup)
    (ht : ∀ b ∈ stationTests c, b = true) (ha : c.address = 0) :
    h.setStation c = ⟨.accepted [], { h with
      cfg := { h.cfg with stations := Table.drop StationCfg.num c.num h.cfg.stations }
      fl := { h.fl with stations := Table.drop Station.num c.num h.fl.stations } }, []⟩ := by
  unfold Hall.setStation
  rw [Hall.setup_checked hs ht, if_pos ha]
  rfl

theorem Hall.setStation_defines {h : Hall} {c : StationCfg} (hs : h.sup.state = .setup)
    (ht : ∀ b ∈ stationTests c, b = true) (ha : c.address ≠ 0) :
    h.setStation c = ⟨.accepted [], { h with
      cfg := { h.cfg with stations := Table.put StationCfg.num c h.cfg.stations }
      fl := { h.fl with stations := Table.put Station.num (Station.initial c.num c.parkCode) h.fl.stations } }, []⟩ := by
  unfold Hall.setStation
  rw [Hall.setup_checked hs ht, if_neg ha]
  rfl

theorem Hall.setCrane_deletes {h : Hall} {c : CraneCfg} (hs : h.sup.state = .setup)
    (ht : ∀ b ∈ craneTests c, b = true) (ha : c.address = 0) :
    h.setCrane c = ⟨.accepted [], { h with
      cfg := { h.cfg with cranes := Table.drop CraneCfg.num c.num h.cfg.cranes }
      fl := { h.fl with cranes := Table.drop Crane.num c.num h.fl.cranes } }, []⟩ := by
  unfold Hall.setCrane
  rw [Hall.setup_checked hs ht, if_pos ha]
  rfl

theorem Hall.setCrane_defines {h : Hall} {c : CraneCfg} (hs : h.sup.state = .setup)
    (ht : ∀ b ∈ craneTests c, b = true) (ha : c.address ≠ 0) :
    h.setCrane c = ⟨.accepted [], { h with
      cfg := { h.cfg with cranes := Table.put CraneCfg.num c.inUnits h.cfg.cranes }
      fl := { h.fl with cranes := Table.put Crane.num (Crane.initial c.num) h.fl.cranes } }, []⟩ := by
  unfold Hall.setCrane
  rw [Hall.setup_checked hs ht, if_neg ha]
  rfl

theorem Hall.setRack_full {h : Hall} {c : RackCfg} (hs : h.sup.state = .setup) (ht : ∀ b ∈ rackTests c, b = true)
    (hf : 64 < h.cfg.slotTotal c.num c.count) :
    h.setRack c = ⟨.refused .full (.number (h.cfg.slotTotal c.num c.count)), h, []⟩ := by
  unfold Hall.setRack
  rw [Hall.setup_checked hs ht, if_pos hf]
  rfl

theorem Hall.setRack_deletes {h : Hall} {c : RackCfg} (hs : h.sup.state = .setup) (ht : ∀ b ∈ rackTests c, b = true)
    (hf : h.cfg.slotTotal c.num c.count ≤ 64) (hc : c.count = 0) :
    h.setRack c = ⟨.accepted [], { h with
      cfg := { h.cfg with racks := Table.drop RackCfg.num c.num h.cfg.racks }
      fl := { h.fl with racks := Table.drop Rack.num c.num h.fl.racks } }, []⟩ := by
  unfold Hall.setRack
  rw [Hall.setup_checked hs ht, if_neg (Nat.not_lt.2 hf), if_pos hc]
  rfl

theorem Hall.setRack_defines {h : Hall} {c : RackCfg} (hs : h.sup.state = .setup) (ht : ∀ b ∈ rackTests c, b = true)
    (hf : h.cfg.slotTotal c.num c.count ≤ 64) (hc : c.count ≠ 0) :
    h.setRack c = ⟨.accepted [], { h with
      cfg := { h.cfg with racks := Table.put RackCfg.num { c with maxMass := c.maxMass * 10 } h.cfg.racks }
      fl := { h.fl with racks := Table.put Rack.num (Rack.initial c.num c.count) h.fl.racks } }, []⟩ := by
  unfold Hall.setRack
  rw [Hall.setup_checked hs ht, if_neg (Nat.not_lt.2 hf), if_neg hc]
  rfl

/-- Settles O19: each request passes its field tests, and its answer is that of its case. -/
theorem devicesAreDefinedOrDeleted : Obligations.DevicesAreDefinedOrDeleted := by
  unfold Obligations.DevicesAreDefinedOrDeleted
  refine ⟨?station, ?crane, ?rack⟩
  case station =>
    intro s tag station address bedL bedW maxT position wearLimit warnLevel parkCode c hturn hs
      hn hn' ha hl hl' hw hw' ht ht' hp hlim hlim' hwarn hcode
    have hpass := stationTests_pass
      (c := ⟨station, address, bedL, bedW, maxT, position, wearLimit, warnLevel, parkCode⟩)
      ⟨hn, hn'⟩ ha ⟨hl, hl'⟩ ⟨hw, hw'⟩ ⟨ht, ht'⟩ hp ⟨hlim, hlim'⟩ hwarn hcode
    exact ⟨fun h0 => State.answers_of hturn rfl (Hall.setStation_deletes hs hpass h0),
      fun h0 => State.answers_of hturn rfl (Hall.setStation_defines hs hpass h0)⟩
  case crane =>
    intro s tag crane address swl tare cm tfull tmin halfSpan limitMin limitMax c hturn hs
      hn hn' ha hswl hswl' htare hcm hfull hfull' hmin hmin' hspan hspan' hlim hmax
    have hpass := craneTests_pass
      (c := ⟨crane, address, swl, tare, cm, tfull, tmin, halfSpan, limitMin, limitMax⟩)
      ⟨hn, hn'⟩ ha ⟨hswl, hswl'⟩ htare hcm ⟨hfull, hfull'⟩ ⟨hmin, hmin'⟩ ⟨hspan, hspan'⟩ hlim hmax
    refine ⟨fun h0 => State.answers_of hturn rfl (Hall.setCrane_deletes hs hpass h0), fun h0 => ?_⟩
    rw [Nat.mul_comm 10 swl, Nat.mul_comm 10 tare, Nat.mul_comm 10 cm]
    exact State.answers_of hturn rfl (Hall.setCrane_defines hs hpass h0)
  case rack =>
    intro s tag rack address slots maxL maxW maxMass position c total hturn hs
      hn hn' ha ha' hslots hl hl' hw hw' hm hm' hp
    have hpass := rackTests_pass (c := ⟨rack, address, slots, maxL, maxW, maxMass, position⟩)
      ⟨hn, hn'⟩ ⟨ha, ha'⟩ hslots ⟨hl, hl'⟩ ⟨hw, hw'⟩ ⟨hm, hm'⟩ hp
    refine ⟨fun hf => State.answers_of hturn rfl (Hall.setRack_full hs hpass hf),
      fun hf h0 => State.answers_of hturn rfl (Hall.setRack_deletes hs hpass hf h0), fun hf h0 => ?_⟩
    rw [Nat.mul_comm 10 maxMass]
    exact State.answers_of hturn rfl (Hall.setRack_defines hs hpass hf h0)

end Sys2Proof.Machine
end
section
/-! SUPPORT. A station's record and the work of an event: what a change of one station, of a node, or of the orders leaves of
the other records, and what each station operation does to the record. -/
namespace Sys2Proof.Machine

/-- In a table with one entry for each number, every entry is found under its number. -/
theorem Table.get_of_mem {α : Type} (key : α → Nat) {a : α} :
    ∀ {l : List α}, (l.map key).Nodup → a ∈ l → Table.get key (key a) l = some a
  | b :: l, hk, ha => by
    obtain ⟨hb, hl⟩ := List.nodup_cons.1 hk
    unfold Table.get
    rcases List.mem_cons.1 ha with rfl | ha
    · exact List.find?_cons_of_pos (beq_self_eq_true _)
    · have hne : key b ≠ key a := fun h => hb (h ▸ List.mem_map_of_mem ha)
      rw [List.find?_cons_of_neg (by simpa only [beq_iff_eq] using hne)]
      exact Table.get_of_mem key hl ha

/-! ## The records under a change of one station or one node -/

section
variable {x : Ctx} {w : Work} {n : Nat}

theorem Work.station?_onStation {f : Station → Station} (hf : ∀ z : Station, z.num = n → (f z).num = n) :
    (w.onStation n f).fl.station? n = (w.fl.station? n).map f := Table.get_amend_self Station.num hf _

/-- The record of a station that a change of it has led to. -/
theorem Work.station?_onStation_some {f : Station → Station} {st : Station} (h : w.fl.station? n = some st)
    (hf : ∀ z : Station, z.num = n → (f z).num = n) : (w.onStation n f).fl.station? n = some (f st) := by
  rw [Work.station?_onStation hf, h]; rfl

theorem Work.node?_onNode_some {a : Nat} {f : Node → Node} {node : Node} (h : w.fl.node? a = some node)
    (hf : ∀ z : Node, z.address = a → (f z).address = a) : (w.onNode a f).fl.node? a = some (f node) :=
  (Table.get_amend_self Node.address hf _).trans (congrArg (Option.map f) h)

theorem Floor.station?_num {fl : Floor} {st : Station} (h : fl.station? n = some st) : st.num = n :=
  Table.key_of_get _ h

/-! ## A station's state changed (R45, R56) -/

/-- In a state other than LOADED and HELD the park timer stands at its code. -/
theorem Station.goTo_other {hall : HallState} {code : Nat} {s : StationState} (hl : s ≠ .loaded) (hh : s ≠ .held)
    (st : Station) : st.goTo hall code s = { st with state := s, park := ⟨st.park.code, 0, .stopped⟩ } := by
  unfold Station.goTo Timer.stop
  rw [if_neg (not_or.2 ⟨hl, hh⟩)]

@[simp] theorem Station.goTo_state (hall : HallState) (code : Nat) (s : StationState) (st : Station) :
    (st.goTo hall code s).state = s := by unfold Station.goTo; split <;> rfl

/-- What a station's record keeps beside its state, its timer, its orders and its hold set. -/
def Station.sameWork (a b : Station) : Prop :=
  a.entry = b.entry ∧ a.bed = b.bed ∧ a.job = b.job ∧ a.wear = b.wear

theorem Station.goTo_sameWork (hall : HallState) (code : Nat) (s : StationState) (st : Station) :
    (st.goTo hall code s).sameWork st := by unfold Station.goTo; split <;> exact ⟨rfl, rfl, rfl, rfl⟩
theorem Station.dropEntryOrder_sameWork (st : Station) : st.dropEntryOrder.sameWork st := by
  unfold Station.dropEntryOrder; split <;> exact ⟨rfl, rfl, rfl, rfl⟩

theorem Work.changeState_fl (s : StationState) :
    (w.changeState x n s).fl = (w.onStation n (Station.goTo x.hall (x.parkCode n) s)).fl :=
  Work.noteStation_fl _ _ _

@[simp] theorem Work.changeState_plates (s : StationState) : (w.changeState x n s).fl.plates = w.fl.plates := by
  rw [Work.changeState_fl, Work.onStation_plates]
@[simp] theorem Work.changeState_jobs (s : StationState) : (w.changeState x n s).fl.jobs = w.fl.jobs := by
  rw [Work.changeState_fl, Work.onStation_jobs]
@[simp] theorem Work.changeState_line (s : StationState) : (w.changeState x n s).fl.line = w.fl.line := by
  rw [Work.changeState_fl, Work.onStation_line]

/-- A station that goes to a state other than LOADED and HELD. -/
theorem Work.station?_changeState_other {s : StationState} (hl : s ≠ .loaded) (hh : s ≠ .held) {st : Station}
    (h : w.fl.station? n = some st) :
    (w.changeState x n s).fl.station? n = some { st with state := s, park := ⟨st.park.code, 0, .stopped⟩ } := by
  rw [Work.changeState_fl, Work.station?_onStation_some h fun z hz => by simpa using hz, Station.goTo_other hl hh]

theorem Phase.working_ne_loaded (p : Phase) : p.working ≠ .loaded := by cases p <;> decide
theorem Phase.working_ne_held (p : Phase) : p.working ≠ .held := by cases p <;> decide

/-! ## A reason added (R51) -/

theorem Station.onReason_state (hall : HallState) (code : Nat) (st : Station) :
    (st.onReason hall code).state =
      if st.state = .marking ∨ st.state = .burning then
        (if st.entry.isSome then StationState.holdPending else .held)
      else st.state := by
  unfold Station.onReason
  cases hs : st.state <;> simp [StationState.isWorking, hs]
  all_goals split <;> simp

theorem Station.onReason_sameWork (hall : HallState) (code : Nat) (st : Station) :
    (st.onReason hall code).sameWork st := by
  unfold Station.onReason
  split
  · split
    · exact st.goTo_sameWork hall code _
    · obtain ⟨he, hb, hj, hw⟩ := st.dropEntryOrder_sameWork
      obtain ⟨he', hb', hj', hw'⟩ := st.dropEntryOrder.goTo_sameWork hall code .held
      exact ⟨he'.trans he, hb'.trans hb, hj'.trans hj, hw'.trans hw⟩
  · exact ⟨rfl, rfl, rfl, rfl⟩

/-- A station that does not work keeps its record at a reason. -/
theorem Station.onReason_idle {st : Station} (h : st.state.isWorking = false) (hall : HallState) (code : Nat) :
    st.onReason hall code = st := by
  unfold Station.onReason
  rw [if_neg (by simp [h])]

theorem Work.addReason_present {r : HoldReason} {st : Station} (h : w.fl.station? n = some st)
    (hr : st.hold.has r = true) : w.addReason x n r = w := by
  unfold Work.addReason
  simp [h, hr]

/-- A reason other than FROZEN, new in the set, changes that station alone. -/
theorem Work.addReason_fl {r : HoldReason} {st : Station} (h : w.fl.station? n = some st)
    (hr : st.hold.has r = false) (hf : r ≠ .frozen) :
    (w.addReason x n r).fl = (w.onStation n fun z =>
      ({ z with hold := z.hold.set r true } : Station).onReason x.hall (x.parkCode n)).fl := by
  unfold Work.addReason
  simp [h, hr, hf]

theorem Work.station?_addReason {r : HoldReason} {st : Station} (h : w.fl.station? n = some st)
    (hr : st.hold.has r = false) (hf : r ≠ .frozen) :
    (w.addReason x n r).fl.station? n =
      some (({ st with hold := st.hold.set r true } : Station).onReason x.hall (x.parkCode n)) := by
  rw [Work.addReason_fl h hr hf, Work.station?_onStation_some h fun z hz => by simpa using hz]

/-! ## A READY job handed to its station (R86) -/

/-- With one job for each number, the job of a station's queue that is not QUEUED is found under its own number. -/
theorem Floor.job?_of_leadJob {fl : Floor} {j : Job} (hk : (fl.jobs.map Job.id).Nodup) (h : fl.leadJob n = some j) :
    fl.job? j.id = some j ∧ j.station = n := by
  have hmem : j ∈ fl.jobs := List.mem_of_find?_eq_some h
  have hp := List.find?_some h
  simp only [Bool.and_eq_true, beq_iff_eq] at hp
  exact ⟨Table.get_of_mem Job.id hk hmem, hp.1⟩

/-- A station that is not LOADED is handed no job. -/
theorem Work.handReady_not_loaded {st : Station} (hk : (w.fl.jobs.map Job.id).Nodup)
    (h : w.fl.station? n = some st) (hs : st.state ≠ .loaded) : w.handReady x n = w := by
  unfold Work.handReady
  split
  · rename_i j hlead
    obtain ⟨hjob, hstation⟩ := Floor.job?_of_leadJob hk hlead
    unfold Work.handJob
    simp [hjob, hstation, h, Station.mayStart, hs]
  · rfl

end

end Sys2Proof.Machine
end
section
/-! SUPPORT. A reason removed from a station's hold set (R52): the four things that can follow, and the next entry ordered
(R47, R49) where the node has room and where it has none. -/
namespace Sys2Proof.Machine

section
variable {x : Ctx} {w : Work} {n : Nat} {st : Station}

/-! ## The next entry ordered (R47, R49) -/

/-- With no room at the node the orders wait in the outbox. -/
theorem Work.drain_no_room (hroom : (w.fl.node? (x.stationAddress n)).any Node.hasRoom = false) : w.drain x n = w := by
  unfold Work.drain drainStation
  split
  · rfl
  · split
    · rfl
    · rw [if_pos (.inr (by simp [hroom]))]

/-- A node record with one more numbered order at its queue's end (R140). -/
def Node.taking (o : Order) (k : Nat) (node : Node) : Node :=
  { node with orders := node.orders ++ [⟨o, k, false⟩], lastAssigned := k }

/-- A node with an available number and fewer than four orders takes one more. -/
theorem Node.hand_eq {o : Order} {node : Node} {k : Nat} (hlen : node.orders.length < 4)
    (hk : node.nextNumber = some k) : node.hand o = some (k, node.taking o k) := by
  simp [Node.hand, Node.taking, hlen, hk]

theorem Node.hasRoom_eq {node : Node} {k : Nat} (hlen : node.orders.length < 4) (hk : node.nextNumber = some k) :
    node.hasRoom = true := by
  simp [Node.hasRoom, hlen, hk]

/-- A station with an empty outbox is drained already. -/
theorem drainStation_empty {fuel : Nat} (h : w.fl.station? n = some st) (hbox : st.outbox = []) :
    drainStation x n fuel w = w := by
  cases fuel with
  | zero => rfl
  | succ fuel => unfold drainStation; simp [h, hbox]

/-- A station record whose outbox's head has gone to the node as the entry in progress (R47). -/
def Station.beginEntry (hall : HallState) (code : Nat) (o : Order) (e : InProgress) (st : Station) : Station :=
  { ({ st with outbox := st.outbox.tail } : Station).rearm hall code o with entry := some e }

@[simp] theorem Station.beginEntry_num (hall : HallState) (code : Nat) (o : Order) (e : InProgress) (st : Station) :
    (st.beginEntry hall code o e).num = st.num := by simp [Station.beginEntry]

/-- A BURNING station's timer is not armed anew as its order goes (R56). -/
theorem Station.beginEntry_burning (hall : HallState) (code : Nat) (o : Order) (e : InProgress)
    (hs : st.state = .burning) : st.beginEntry hall code o e = { st with outbox := st.outbox.tail, entry := some e } := by
  simp [Station.beginEntry, Station.rearm, hs]

/-- The head order queued as an entry: the node takes it, and the station begins its entry. -/
theorem Work.queueHead_entry {o : Order} {e : Nat → InProgress} {k : Nat} {node : Node} (hx : x.hall ≠ .frozen)
    (hnode : w.fl.node? (x.stationAddress n) = some node) (hlen : node.orders.length < 4)
    (hk : node.nextNumber = some k) :
    w.queueHead x n o (fun k => some (e k)) =
      some ((w.onNode (x.stationAddress n) fun _ => node.taking o k).onStation n
        (Station.beginEntry x.hall (x.parkCode n) o (e k))) := by
  simp only [Work.queueHead, Work.handOrder, if_neg hx, hnode, Option.bind_some, Node.hand_eq hlen hk, Option.map_some]
  rfl

/-- The drain of a burn that waits alone ends with its order queued. -/
theorem Work.drain_burn_alone {i pierces thick : Nat} {w' : Work} {st' : Station} (h : w.fl.station? n = some st)
    (hbox : st.outbox = [.burn i pierces thick]) (hwear : st.wear < x.wearLimit n) (hx : x.hall ≠ .frozen)
    (hroom : (w.fl.node? (x.stationAddress n)).any Node.hasRoom = true)
    (hqueue : w.queueHead x n (.burn i pierces thick) (fun k => some ⟨i, .burn, k, false, [], []⟩) = some w')
    (h' : w'.fl.station? n = some st') (hbox' : st'.outbox = []) : w.drain x n = w' := by
  unfold Work.drain drainStation
  simp only [h, hbox]
  rw [if_neg (by simp [hx, hroom]), if_neg (Nat.not_le.2 hwear), hqueue]
  exact drainStation_empty h' hbox'

/-- A burn that waits alone in the outbox of a BURNING station goes into its node's queue and becomes the entry in progress,
while the wear is below the limit and the node has room (R47, R49). -/
theorem Work.drain_burn {i pierces thick k : Nat} {node : Node} (h : w.fl.station? n = some st)
    (hbox : st.outbox = [.burn i pierces thick]) (hs : st.state = .burning) (hwear : st.wear < x.wearLimit n)
    (hx : x.hall ≠ .frozen) (hnode : w.fl.node? (x.stationAddress n) = some node) (hlen : node.orders.length < 4)
    (hk : node.nextNumber = some k) :
    (w.drain x n).fl.station? n = some { st with outbox := [], entry := some ⟨i, .burn, k, false, [], []⟩ }
      ∧ (w.drain x n).fl.node? (x.stationAddress n) = some (node.taking (.burn i pierces thick) k)
      ∧ (w.drain x n).fl.jobs = w.fl.jobs := by
  have hqueue := w.queueHead_entry (o := .burn i pierces thick) (e := fun k => ⟨i, .burn, k, false, [], []⟩)
    hx hnode hlen hk
  have hst := Work.station?_onStation_some
    (w := w.onNode (x.stationAddress n) fun _ => node.taking (.burn i pierces thick) k)
    (f := Station.beginEntry x.hall (x.parkCode n) (.burn i pierces thick) ⟨i, .burn, k, false, [], []⟩)
    h fun z hz => by simpa using hz
  rw [Station.beginEntry_burning _ _ _ _ hs, hbox] at hst
  rw [Work.drain_burn_alone h hbox hwear hx (by simp [hnode, Node.hasRoom_eq hlen hk]) hqueue hst rfl]
  have haddr : node.address = x.stationAddress n := Table.key_of_get _ hnode
  exact ⟨hst, Work.node?_onNode_some hnode fun _ _ => haddr, rfl⟩

/-- With an empty hold set and outbox and the torch not parked, an order stands alone in the outbox and is drained. -/
theorem Work.orderIt_unheld (o : Order) (h : w.fl.station? n = some st) (hh : st.hold = {}) (hp : st.parked = false)
    (hbox : st.outbox = []) :
    w.orderIt x n o = (w.onStation n (Station.orderEntry o)).drain x n
      ∧ (w.onStation n (Station.orderEntry o)).fl.station? n = some { st with outbox := [o] } := by
  constructor
  · unfold Work.orderIt
    rw [if_pos (by simp [h, hh, HoldSet.isEmpty, HoldSet.none])]
  · rw [Work.station?_onStation_some h fun z hz => by simpa using hz]
    simp [Station.orderEntry, Station.produce, hp, hbox]

/-- The order of the next entry of a phase: the next mark in phase MARK, the next burn in phase BURN (R49). -/
def Floor.ordersNext (fl : Floor) (st : Station) (j : Job) (p : Phase) (o : Order) : Prop :=
  (∃ i, p = .mark ∧ nextMark j.entries = some i ∧ o = .mark i [])
    ∨ ∃ i, p = .burn ∧ nextBurn j.entries = some i ∧ o = fl.burnOrder st j i

/-- Where an entry is left, choosing the next entry is ordering it. -/
theorem Work.orderNext_eq {j : Job} {p : Phase} {o : Order} (h : w.fl.station? n = some st) (hp : st.phase = some p)
    (hj : st.job.bind w.fl.job? = some j) (ho : w.fl.ordersNext st j p o) : w.orderNext x n = w.orderIt x n o := by
  unfold Work.orderNext
  rcases ho with ⟨i, rfl, hi, rfl⟩ | ⟨i, rfl, hi, rfl⟩
  · simp [h, hp, hj, hi]
  · simp [h, hp, hj, Work.orderBurn, hi]

theorem Floor.ordersNext_of_plates {fl fl' : Floor} {st' : Station} {j : Job} {p : Phase} {o : Order}
    (h : fl.ordersNext st j p o) (hf : fl'.plates = fl.plates) (hb : st'.bed = st.bed) : fl'.ordersNext st' j p o := by
  have hplate : fl'.plate? = fl.plate? := by funext k; simp only [Floor.plate?, hf]
  have hburn (i : Nat) : fl'.burnOrder st' j i = fl.burnOrder st j i := by simp only [Floor.burnOrder, hplate, hb]
  simpa only [Floor.ordersNext, hburn] using h

/-- A HELD station with nothing to hold it goes to the state of its phase with the next order alone in its outbox, which is
then drained. -/
theorem Work.orderNext_resumed {j : Job} {p : Phase} {o : Order} (h : w.fl.station? n = some st)
    (hh : st.hold = {}) (hp : st.phase = some p) (hj : st.job.bind w.fl.job? = some j)
    (ho : w.fl.ordersNext st j p o) (hbox : st.outbox = []) (hpark : st.parked = false) :
    ∃ v : Work, (w.changeState x n p.working).orderNext x n = v.drain x n
      ∧ v.fl.station? n = some { st with state := p.working, park := ⟨st.park.code, 0, .stopped⟩, outbox := [o] }
      ∧ v.fl.line = w.fl.line ∧ v.fl.jobs = w.fl.jobs := by
  have hst := Work.station?_changeState_other (x := x) p.working_ne_loaded p.working_ne_held h
  have hj' : st.job.bind (w.changeState x n p.working).fl.job? = some j := by
    have hjob : (w.changeState x n p.working).fl.job? = w.fl.job? := by
      funext k; simp only [Floor.job?, Work.changeState_jobs]
    rw [hjob, hj]
  have ho' := Floor.ordersNext_of_plates ho (w.changeState_plates (x := x) (n := n) p.working)
    (st' := { st with state := p.working, park := ⟨st.park.code, 0, .stopped⟩ }) rfl
  obtain ⟨horder, hst'⟩ := Work.orderIt_unheld (x := x) o hst hh hpark hbox
  exact ⟨_, (Work.orderNext_eq hst hp hj' ho').trans horder, hst', by simp, by simp⟩

/-! ## What a reason removed leaves (R52) -/

/-- A reason taken out of a station's hold set, with its STATION notice. -/
def Work.withoutReason (x : Ctx) (n : Nat) (r : HoldReason) (st : Station) (w : Work) : Work :=
  (w.onStation n fun z => { z with hold := z.hold.set r false }).note x
    (.station .reasonRemoved n st.state (st.hold.set r false) (some r) st.job st.fault st.cond)

theorem Work.station?_withoutReason (r : HoldReason) (h : w.fl.station? n = some st) :
    (w.withoutReason x n r st).fl.station? n = some { st with hold := st.hold.set r false } :=
  Work.station?_onStation_some h fun _ hz => hz

theorem Work.noteStation_reasonRemoved {r : Option HoldReason} (h : w.fl.station? n = some st) :
    w.noteStation x n .reasonRemoved r = w.note x (st.shown .reasonRemoved r) := by
  unfold Work.noteStation
  rw [h]

/-- A reason that the set does not hold changes nothing. -/
theorem Work.removeReason_absent {r : HoldReason} (h : w.fl.station? n = some st) (hr : st.hold.has r = false) :
    w.removeReason x n r = w := by
  unfold Work.removeReason
  simp [h, hr]

/-- A reason that the set holds leaves it with its notice, and a set emptied has its own consequence. -/
theorem Work.removeReason_present {r : HoldReason} (h : w.fl.station? n = some st) (hr : st.hold.has r = true) :
    w.removeReason x n r =
      if st.hold.set r false = {} then (w.withoutReason x n r st).setEmptied x n else w.withoutReason x n r st := by
  have hnote : (w.onStation n fun z => { z with hold := z.hold.set r false }).noteStation x n .reasonRemoved (some r)
      = w.withoutReason x n r st := by
    have hst := Work.station?_onStation_some (f := fun z => { z with hold := z.hold.set r false }) h fun _ hz => hz
    rw [Work.noteStation_reasonRemoved hst]
    simp only [Work.withoutReason, Station.shown, Floor.station?_num h]
  unfold Work.removeReason
  simp [h, hr, hnote, HoldSet.isEmpty, HoldSet.none]

/-- The set of a HOLD_PENDING station emptied: it goes on with its entry. -/
theorem Work.setEmptied_holdPending {p : Phase} (hk : (w.fl.jobs.map Job.id).Nodup) (h : w.fl.station? n = some st)
    (hs : st.state = .holdPending) (hp : st.phase = some p) :
    (w.setEmptied x n).fl.station? n = some { st with state := p.working, park := ⟨st.park.code, 0, .stopped⟩ } := by
  have hst := Work.station?_changeState_other (x := x) p.working_ne_loaded p.working_ne_held h
  have hjobs : ((w.changeState x n p.working).fl.jobs.map Job.id).Nodup := by rwa [Work.changeState_jobs]
  have hset : w.setEmptied x n = (w.changeState x n p.working).handReady x n := by
    unfold Work.setEmptied
    simp [h, hs, hp]
  rw [hset, Work.handReady_not_loaded hjobs hst p.working_ne_loaded, hst]

/-- The set of a HELD station emptied: it resumes by its phase and orders its next entry; a READY job is not handed to it
then, as it is not LOADED. -/
theorem Work.setEmptied_held {p : Phase} {st' : Station} (h : w.fl.station? n = some st) (hs : st.state = .held)
    (hp : st.phase = some p) (hk : (((w.changeState x n p.working).orderNext x n).fl.jobs.map Job.id).Nodup)
    (h' : ((w.changeState x n p.working).orderNext x n).fl.station? n = some st') (hs' : st'.state ≠ .loaded) :
    w.setEmptied x n = (w.changeState x n p.working).orderNext x n := by
  unfold Work.setEmptied
  simp only [h, hs, hp, Option.map_some, Option.getD_some, if_true]
  exact Work.handReady_not_loaded hk h' hs'

/-- A HELD station resumed while its node has no room: the order of its next entry waits in the outbox. -/
theorem Work.setEmptied_held_no_room {j : Job} {p : Phase} {o : Order} (hk : (w.fl.jobs.map Job.id).Nodup)
    (h : w.fl.station? n = some st) (hs : st.state = .held) (hh : st.hold = {}) (hp : st.phase = some p)
    (hj : st.job.bind w.fl.job? = some j) (ho : w.fl.ordersNext st j p o) (hbox : st.outbox = [])
    (hpark : st.parked = false) (hroom : (w.fl.node? (x.stationAddress n)).any Node.hasRoom = false) :
    (w.setEmptied x n).fl.station? n =
      some { st with state := p.working, park := ⟨st.park.code, 0, .stopped⟩, outbox := [o] } := by
  obtain ⟨v, hv, hst, hline, hjobs⟩ := Work.orderNext_resumed (x := x) h hh hp hj ho hbox hpark
  rw [Work.drain_no_room (by simpa only [Floor.node?, hline] using hroom)] at hv
  rw [Work.setEmptied_held h hs hp (by rw [hv, hjobs]; exact hk) (by rw [hv]; exact hst) p.working_ne_loaded, hv]
  exact hst

/-- A HELD station resumed for a burn that its wear and its node allow: the burn is the entry in progress, and its order the
last of the node's queue. -/
theorem Work.setEmptied_held_burn {j : Job} {i k : Nat} {node : Node} (hk : (w.fl.jobs.map Job.id).Nodup)
    (h : w.fl.station? n = some st) (hs : st.state = .held) (hh : st.hold = {}) (hp : st.phase = some .burn)
    (hj : st.job.bind w.fl.job? = some j) (hi : nextBurn j.entries = some i) (hbox : st.outbox = [])
    (hpark : st.parked = false) (hwear : st.wear < x.wearLimit n) (hx : x.hall ≠ .frozen)
    (hnode : w.fl.node? (x.stationAddress n) = some node) (hlen : node.orders.length < 4)
    (hnum : node.nextNumber = some k) :
    (w.setEmptied x n).fl.station? n = some { st with
        state := .burning, park := ⟨st.park.code, 0, .stopped⟩, entry := some ⟨i, .burn, k, false, [], []⟩ }
      ∧ (w.setEmptied x n).fl.node? (x.stationAddress n) = some (node.taking (w.fl.burnOrder st j i) k) := by
  obtain ⟨v, hv, hst, hline, hjobs⟩ :=
    Work.orderNext_resumed (x := x) h hh hp hj (.inr ⟨i, rfl, hi, rfl⟩) hbox hpark
  have hnode' : v.fl.node? (x.stationAddress n) = some node := by simpa only [Floor.node?, hline] using hnode
  obtain ⟨hst', hnode'', hjobs'⟩ := Work.drain_burn hst rfl rfl hwear hx hnode' hlen hnum
  rw [Work.setEmptied_held h hs hp (by rw [hv, hjobs', hjobs]; exact hk) (by rw [hv]; exact hst')
    (Phase.working_ne_loaded .burn), hv]
  exact ⟨hst'.trans (by rw [hbox]; rfl), hnode''⟩

/-- The set of any other station emptied: it keeps its state, and a READY job is handed to it. -/
theorem Work.setEmptied_other (h : w.fl.station? n = some st) (hh : st.state ≠ .held) (hp : st.state ≠ .holdPending) :
    w.setEmptied x n = w.handReady x n := by
  unfold Work.setEmptied
  simp [h, hh, hp]

end

end Sys2Proof.Machine
end
section
/-! SUPPORT. Of the six hold reasons an event on a station brings in SERIAL_EXHAUSTED and CONSUMABLES alone by itself (R49,
R75): once HOST is out of a station's set, nothing that follows at the event brings it in again. -/
namespace Sys2Proof.Machine

/-- The station is there and is not held by the host. -/
def Work.hostOut (n : Nat) (w : Work) : Prop := ∃ st, w.fl.station? n = some st ∧ st.hold.host = false

section
variable {x : Ctx} {w v : Work} {n : Nat}

/-! ## What leaves the stations -/

theorem Work.hostOut.of_stations (h : w.hostOut n) (hs : v.fl.stations = w.fl.stations) : v.hostOut n := by
  obtain ⟨st, hst, hh⟩ := h
  exact ⟨st, by simpa [Floor.station?, hs] using hst, hh⟩

theorem Work.hostOut.of_fl (h : w.hostOut n) (hs : v.fl = w.fl) : v.hostOut n := h.of_stations (congrArg Floor.stations hs)

theorem Work.hostOut.onJob {id : Nat} (f : Job → Job) (h : w.hostOut n) : (w.onJob id f).hostOut n := h
theorem Work.hostOut.noteJob (id : Nat) (c : JobCause) (r m : Option Nat) (h : w.hostOut n) :
    (w.noteJob x id c r m).hostOut n := h.of_fl (Work.noteJob_fl _ _ _ _)

theorem Work.noteSerial_stations (c : Nat) (e : SerialCause) : (w.noteSerial x c e).fl.stations = w.fl.stations :=
  congrArg Floor.stations (Work.noteSerial_fl c e)

theorem renderFields_stations (src : MarkSource) (d : Draw) : ∀ (fs : List Field) (w : Work),
    (renderFields x src d fs w).2.fl.stations = w.fl.stations
  | [], _ => rfl
  | f :: fs, w => by
    unfold renderFields
    refine (renderFields_stations src d fs _).trans ?_
    cases f with
    | serial c =>
      dsimp only
      split
      · rfl
      · split
        · exact Work.noteSerial_stations _ _
        · rfl
    | _ => rfl

/-- A composition changes counters alone. -/
theorem Work.compose_stations (t : Nat) (src : MarkSource) (d : Draw) :
    (w.compose x t src d).2.fl.stations = w.fl.stations := by
  unfold Work.compose
  dsimp only
  split
  · exact Work.noteSerial_stations _ _
  · exact renderFields_stations _ _ _ _

theorem Work.closeJob_stations (id : Nat) (o : JobOutcome) (figures : Option (Nat × Nat)) :
    (w.closeJob x id o figures).fl.stations = w.fl.stations := by
  unfold Work.closeJob
  split <;> rfl

/-! ## What changes a station -/

/-- A change of any station that leaves its number and HOST. -/
theorem Work.hostOut.onStation {m : Nat} {f : Station → Station} (h : w.hostOut n)
    (hf : ∀ z : Station, (f z).num = z.num := by intro _; rfl)
    (hh : ∀ z : Station, (f z).hold.host = z.hold.host := by intro _; rfl) : (w.onStation m f).hostOut n := by
  obtain ⟨st, hst, hout⟩ := h
  by_cases hm : m = n
  · subst hm
    exact ⟨f st, Work.station?_onStation_some hst fun z hz => (hf z).trans hz, (hh st).trans hout⟩
  · refine ⟨st, ?_, hout⟩
    exact (Table.get_amend_other Station.num (Ne.symm hm) (fun z hz => (hf z).trans hz) _).trans hst

theorem Work.hostOut.changeState (m : Nat) (s : StationState) (h : w.hostOut n) : (w.changeState x m s).hostOut n := by
  have h' : (w.enter x m s).hostOut n := h.onStation (fun z => by simp) fun z => by simp
  exact h'.of_fl (Work.noteStation_fl _ _ _)

/-- A reason that is neither HOST nor FROZEN added to any station. -/
theorem Work.hostOut.addReason (m : Nat) {r : HoldReason} (h : w.hostOut n) (hr : r ≠ .host) (hf : r ≠ .frozen) :
    (w.addReason x m r).hostOut n := by
  cases hm : w.fl.station? m with
  | none => unfold Work.addReason; rw [hm]; exact h
  | some st =>
    cases hs : st.hold.has r with
    | true => rw [Work.addReason_present hm hs]; exact h
    | false =>
      refine Work.hostOut.of_fl (h.onStation (fun z => by simp) fun z => ?_) (Work.addReason_fl hm hs hf)
      have hset := HoldSet.has_set z.hold r .host true
      rw [if_neg (Ne.symm hr)] at hset
      rw [Station.onReason_hold]
      exact hset

theorem Work.hostOut.queueHead {m : Nat} {o : Order} {entry : Nat → Option InProgress} (h : w.hostOut n)
    (hv : w.queueHead x m o entry = some v) : v.hostOut n := by
  obtain ⟨r, hr, rfl⟩ := Option.map_eq_some_iff.1 hv
  obtain ⟨_, _, node, _, _, hnode⟩ := Work.handOrder_some hr
  have h' : r.2.hostOut n := h.of_stations (by rw [hnode]; rfl)
  refine h'.onStation (fun z => ?_) fun z => ?_
  · dsimp only
    split <;> simp
  · dsimp only
    split <;> simp

theorem Work.hostOut.drainStation (m : Nat) : ∀ (fuel : Nat) {w : Work}, w.hostOut n →
    (Machine.drainStation x m fuel w).hostOut n
  | 0, _, h => h
  | fuel + 1, w, h => by
    unfold Machine.drainStation
    split
    · exact h
    · split
      · exact h
      · split
        · exact h
        · split
          · split
            · exact h
            · split
              · rename_i hc
                have h' := h.of_stations ((congrArg (·.2.fl.stations) hc).symm.trans (Work.compose_stations _ _ _))
                exact h'.onStation.addReason m (by decide) (by decide)
              · rename_i hc
                have h' := h.of_stations ((congrArg (·.2.fl.stations) hc).symm.trans (Work.compose_stations _ _ _))
                split
                · rename_i hq; exact Work.hostOut.drainStation m fuel (h'.queueHead hq)
                · exact h'
          · split
            · exact h.addReason m (by decide) (by decide)
            · split
              · rename_i hq; exact Work.hostOut.drainStation m fuel (h.queueHead hq)
              · exact h
          · split
            · rename_i hq; exact Work.hostOut.drainStation m fuel (h.queueHead hq)
            · exact h

/-! ## The flow of a job -/

theorem Work.hostOut.endUncut (j : Job) (o : JobOutcome) (h : w.hostOut n) : (w.endUncut x j o).hostOut n := by
  have hfree : (w.freePlate j.plate).hostOut n := h
  have hclear := hfree.onStation (m := j.station) (f := fun st => { st with job := none, phase := none })
  have hloaded := hclear.onStation (m := j.station) (f := Station.goTo x.hall (x.parkCode j.station) .loaded)
    (fun z => by simp) fun z => by simp
  exact (hloaded.of_stations (Work.closeJob_stations _ _ _)).of_fl (Work.noteStation_fl _ _ _)

theorem Work.hostOut.beginCloseOut (j : Job) (o : JobOutcome) (h : w.hostOut n) : (w.beginCloseOut x j o).hostOut n :=
  ((h.onJob _).noteJob _ _ _ _).changeState _ _

theorem Work.hostOut.endJob (id : Nat) (o : JobOutcome) (h : w.hostOut n) : (w.endJob x id o).hostOut n := by
  unfold Work.endJob
  split
  · exact h
  · dsimp only
    split
    · exact (h.onJob _).beginCloseOut _ _
    · exact (h.onJob _).endUncut _ _

theorem Work.hostOut.orderIt (m : Nat) (o : Order) (h : w.hostOut n) : (w.orderIt x m o).hostOut n := by
  unfold Work.orderIt
  split
  · exact (h.onStation (fun z => by simp) fun z => by simp).drainStation m 5
  · exact h.changeState _ _

theorem Work.hostOut.orderBurn (m : Nat) (j : Job) (h : w.hostOut n) : (w.orderBurn x m j).hostOut n := by
  unfold Work.orderBurn
  split
  · exact h.endJob _ _
  · split
    · exact h
    · exact h.orderIt _ _

theorem Work.hostOut.orderNext (m : Nat) (h : w.hostOut n) : (w.orderNext x m).hostOut n := by
  unfold Work.orderNext
  split
  · exact h
  · split
    · exact h
    · split
      · split
        · exact h.orderIt _ _
        · exact (h.onStation.changeState _ _).orderBurn _ _
      · exact h.orderBurn _ _
      · exact h

theorem Work.hostOut.handJob (id : Nat) (h : w.hostOut n) : (w.handJob x id).hostOut n := by
  unfold Work.handJob
  split
  · exact h
  · split
    · exact (((h.onJob _).noteJob _ _ _ _).onStation.changeState _ _).orderNext _
    · exact h

theorem Work.hostOut.handReady (m : Nat) (h : w.hostOut n) : (w.handReady x m).hostOut n := by
  unfold Work.handReady
  split
  · exact h.handJob _
  · exact h

theorem Work.hostOut.setEmptied (m : Nat) (h : w.hostOut n) : (w.setEmptied x m).hostOut n := by
  unfold Work.setEmptied
  split
  · exact h
  · refine Work.hostOut.handReady m ?_
    split
    · exact (h.changeState _ _).orderNext _
    · split
      · exact h.changeState _ _
      · exact h

/-- HOST removed from a station's set is out of it when all that follows at the event is done. -/
theorem Work.hostOut_removeReason {st : Station} (h : w.fl.station? n = some st) :
    (w.removeReason x n .host).hostOut n := by
  cases hr : st.hold.has .host with
  | false => rw [Work.removeReason_absent h hr]; exact ⟨st, h, hr⟩
  | true =>
    have h' : (w.withoutReason x n .host st).hostOut n := ⟨_, Work.station?_withoutReason .host h, rfl⟩
    rw [Work.removeReason_present h hr]
    split
    · exact h'.setEmptied n
    · exact h'

end

end Sys2Proof.Machine
end
section
/-! SUPPORT. STATION_HOLD, STATION_RESUME and CONSUMABLES_CHANGED (R53, R55): what each answers, and what it does to the
station. -/
namespace Sys2Proof.Machine

/-! ## The answers -/

theorem HallState.mem_outsideSetup {s : HallState} (h : s ≠ .setup) : s ∈ outsideSetup := by
  cases s with
  | setup => exact absurd rfl h
  | _ => decide

section
variable {h : Hall} {n : Nat} {st : Station}

theorem Hall.stationHold_unknown (hs : h.sup.state ≠ .setup) (hn : h.fl.station? n = none) :
    h.stationHold n = ⟨.refused .unknownItem .none, h, []⟩ := by
  unfold Hall.stationHold
  rw [Hall.whenIn_mem (HallState.mem_outsideSetup hs), hn]
  rfl

theorem Hall.stationHold_known (hs : h.sup.state ≠ .setup) (hn : h.fl.station? n = some st) :
    h.stationHold n = h.acceptWith [] fun x w => w.addReason x n .host := by
  unfold Hall.stationHold
  rw [Hall.whenIn_mem (HallState.mem_outsideSetup hs), hn]

theorem Hall.stationResume_unknown (hs : h.sup.state ≠ .setup) (hn : h.fl.station? n = none) :
    h.stationResume n = ⟨.refused .unknownItem .none, h, []⟩ := by
  unfold Hall.stationResume
  rw [Hall.whenIn_mem (HallState.mem_outsideSetup hs), hn]
  rfl

theorem Hall.stationResume_known (hs : h.sup.state ≠ .setup) (hn : h.fl.station? n = some st) :
    h.stationResume n = Hall.holdReply n (h.onFloor [] fun x w => w.removeReason x n .host) := by
  unfold Hall.stationResume
  rw [Hall.whenIn_mem (HallState.mem_outsideSetup hs), hn]

theorem Hall.consumablesChanged_unknown (hs : h.sup.state ≠ .setup) (hn : h.fl.station? n = none) :
    h.consumablesChanged n = ⟨.refused .unknownItem .none, h, []⟩ := by
  unfold Hall.consumablesChanged
  rw [Hall.whenIn_mem (HallState.mem_outsideSetup hs), hn]
  rfl

theorem Hall.consumablesChanged_active {e : InProgress} (hs : h.sup.state ≠ .setup) (hn : h.fl.station? n = some st)
    (he : st.entry = some e) : h.consumablesChanged n = ⟨.refused .active (.entry e.index), h, []⟩ := by
  unfold Hall.consumablesChanged
  rw [Hall.whenIn_mem (HallState.mem_outsideSetup hs), hn]
  dsimp only
  rw [he]
  rfl

theorem Hall.consumablesChanged_known (hs : h.sup.state ≠ .setup) (hn : h.fl.station? n = some st)
    (he : st.entry = none) :
    h.consumablesChanged n = Hall.holdReply n (h.onFloor [] fun x w => w.consumablesChanged x n) := by
  unfold Hall.consumablesChanged
  rw [Hall.whenIn_mem (HallState.mem_outsideSetup hs), hn]
  dsimp only
  rw [he]

end

/-! ## The effects -/

section
variable {x : Ctx} {w : Work} {n : Nat} {st : Station}

/-- HOST new in the set of a station (R51). -/
theorem Work.addReason_host (h : w.fl.station? n = some st) (hh : st.hold.host = false) :
    ∃ st' : Station, (w.addReason x n .host).fl.station? n = some st'
      ∧ st'.hold = { st.hold with host := true } ∧ st'.entry = st.entry ∧ st'.bed = st.bed ∧ st'.job = st.job
      ∧ st'.wear = st.wear ∧ st'.state =
        if st.state = .marking ∨ st.state = .burning then
          (if st.entry.isSome then StationState.holdPending else .held)
        else st.state := by
  obtain ⟨he, hb, hj, hw⟩ :=
    Station.onReason_sameWork x.hall (x.parkCode n) { st with hold := st.hold.set .host true }
  exact ⟨_, Work.station?_addReason (r := .host) h hh (by decide), Station.onReason_hold _ _ _, he, hb, hj, hw,
    Station.onReason_state _ _ _⟩

/-- The wear of a station set back to 0 (R55). -/
def Work.clearWear (n : Nat) (w : Work) : Work := w.onStation n fun z => { z with wear := 0 }

theorem Work.station?_clearWear (h : w.fl.station? n = some st) :
    (w.clearWear n).fl.station? n = some { st with wear := 0 } :=
  Work.station?_onStation_some (f := fun z => { z with wear := 0 }) h fun _ hz => hz

/-- The steps of CONSUMABLES_CHANGED: the wear back to 0, HOST for a HELD station, CONSUMABLES out (R55). -/
theorem Work.consumablesChanged_eq (h : w.fl.station? n = some st) :
    w.consumablesChanged x n =
      (if st.state = .held then (w.clearWear n).addReason x n .host else w.clearWear n).removeReason x n .consumables := by
  have hst := Work.station?_clearWear h
  unfold Work.clearWear at hst ⊢
  unfold Work.consumablesChanged
  simp [hst]

/-- Where a station is not left with an empty set, CONSUMABLES goes out of it and no more is changed. -/
theorem Work.station?_removeConsumables (h : w.fl.station? n = some st)
    (hleft : st.hold.consumables = false ∨ ({ st.hold with consumables := false } : HoldSet) ≠ {}) :
    (w.removeReason x n .consumables).fl.station? n =
      some { st with hold := { st.hold with consumables := false } } := by
  cases hc : st.hold.consumables with
  | false => rw [Work.removeReason_absent (r := .consumables) h hc, h, ← hc]
  | true =>
    have hne : st.hold.set .consumables false ≠ {} := hleft.resolve_left (by simp [hc])
    rw [Work.removeReason_present (r := .consumables) h hc, if_neg hne]
    exact Work.station?_withoutReason .consumables h

/-- A HELD station holds HOST when HOST has been added to it, and its record is otherwise as it was. -/
theorem Work.station?_addHost_held (h : w.fl.station? n = some st) (hs : st.state = .held) :
    (w.addReason x n .host).fl.station? n = some { st with hold := { st.hold with host := true } } := by
  cases hh : st.hold.host with
  | true => rw [Work.addReason_present (r := .host) h hh, h, ← hh]
  | false =>
    rw [Work.station?_addReason (r := .host) h hh (by decide), Station.onReason_idle (by simp [hs, StationState.isWorking])]
    rfl

theorem Work.consumablesChanged_held (h : w.fl.station? n = some st) (hs : st.state = .held) :
    (w.consumablesChanged x n).fl.station? n =
      some { st with wear := 0, hold := { st.hold with consumables := false, host := true } } := by
  rw [Work.consumablesChanged_eq h, if_pos hs]
  exact Work.station?_removeConsumables (Work.station?_addHost_held (Work.station?_clearWear h) hs) (.inr (by simp))

theorem Work.consumablesChanged_stays (h : w.fl.station? n = some st) (hs : st.state ≠ .held)
    (hleft : st.hold.consumables = false ∨ ({ st.hold with consumables := false } : HoldSet) ≠ {}) :
    (w.consumablesChanged x n).fl.station? n =
      some { st with wear := 0, hold := { st.hold with consumables := false } } := by
  rw [Work.consumablesChanged_eq h, if_neg hs]
  exact Work.station?_removeConsumables (Work.station?_clearWear h) hleft

end

/-! ## The obligation -/

/-- Settles O40: the answers of the three requests, the record each leaves, and the cases of a set emptied. -/
theorem stationsAreHeldAndResumed : Obligations.StationsAreHeldAndResumed := by
  unfold Obligations.StationsAreHeldAndResumed
  refine ⟨?requests, ?removed⟩
  case requests =>
    intro s tag n hs _
    refine ⟨fun hn => ⟨fun ht => State.answers_of ht rfl (Hall.stationHold_unknown hs hn),
      fun ht => State.answers_of ht rfl (Hall.stationResume_unknown hs hn),
      fun ht => State.answers_of ht rfl (Hall.consumablesChanged_unknown hs hn)⟩, ?_⟩
    intro st hn
    refine ⟨fun ht => ⟨State.answers_of ht rfl (Hall.stationHold_known hs hn), ?hold⟩,
      fun ht => ⟨State.answers_of ht rfl (Hall.stationResume_known hs hn), ?resume⟩,
      fun ht => ⟨fun e he => State.answers_of ht rfl (Hall.consumablesChanged_active hs hn he),
        fun he => ⟨State.answers_of ht rfl (Hall.consumablesChanged_known hs hn he), ?consumables⟩⟩⟩
    case hold =>
      intro x w hw
      rw [← hw] at hn
      exact ⟨Work.addReason_present (r := .host) hn, Work.addReason_host hn⟩
    case resume =>
      intro x w hw
      rw [← hw] at hn
      exact ⟨Work.removeReason_absent (r := .host) hn, Work.hostOut_removeReason hn⟩
    case consumables =>
      intro x w hw
      rw [← hw] at hn
      refine ⟨Work.consumablesChanged_held hn, Work.consumablesChanged_stays hn, fun hheld _ _ => ?_⟩
      exact (Work.consumablesChanged_eq hn).trans (by rw [if_neg hheld]; rfl)
  case removed =>
    intro x w n r st hk hn hr left w' told back stopped
    obtain ⟨-, -, -, -, -, -, -, hjobs, -⟩ := hk
    replace hjobs : (told.fl.jobs.map Job.id).Nodup := hjobs
    have htold : told.fl.station? n = some { st with hold := left } := Work.station?_withoutReason r hn
    have hw' : w' = if left = {} then told.setEmptied x n else told := Work.removeReason_present hn hr
    have hemptied (hleft : left = {}) : w' = told.setEmptied x n := hw'.trans (if_pos hleft)
    have hback (p : Phase) : back p = p.working := by cases p <;> rfl
    refine ⟨fun q => HoldSet.has_set st.hold r q false, fun hleft => hw'.trans (if_neg hleft),
      ?pending, ?ordered, ?noRoom, ?other⟩
    case pending =>
      intro p hleft hs hp
      rw [hemptied hleft, hback, ← hleft]
      exact Work.setEmptied_holdPending hjobs htold hs hp
    case ordered =>
      intro j i hleft hs hp hj hi hbox hpark hwear hx node k hnode hlen hnum
      obtain ⟨hst, hnode'⟩ :=
        Work.setEmptied_held_burn hjobs htold hs hleft hp hj hi hbox hpark hwear hx hnode hlen hnum
      rw [hemptied hleft, ← hleft]
      exact ⟨hst, _, hnode', rfl⟩
    case noRoom =>
      intro j p o hleft hs hp hj ho hbox hpark hroom
      have hfull : (told.fl.node? (x.stationAddress n)).any Node.hasRoom = false := by
        have hnode : told.fl.node? (x.stationAddress n) = w.fl.node? (x.stationAddress n) := rfl
        simpa [hnode, Option.any_eq_false] using hroom
      rw [hemptied hleft, hback, ← hleft]
      exact Work.setEmptied_held_no_room hjobs htold hs hleft hp hj ho hbox hpark hfull
    case other =>
      intro hleft hheld hpending
      rw [hemptied hleft, Work.setEmptied_other htold hheld hpending]
      unfold Work.handReady
      exact ⟨fun j hj => by rw [show told.fl.leadJob n = some j from hj],
        fun hj => by rw [show told.fl.leadJob n = none from hj]⟩

end Sys2Proof.Machine
end
section
/-! SUPPORT. DEFINE_TEMPLATE (R64): its field checks, the counter named twice, the lowest job that references the template, and
what it then answers. -/
namespace Sys2Proof.Machine

/-! ## Requests outside FROZEN -/

theorem HallState.mem_outsideFrozen {s : HallState} (h : s ≠ .frozen) : s ∈ outsideFrozen := by
  cases s with
  | frozen => exact absurd rfl h
  | _ => decide

/-- Outside FROZEN, with its fields within their ranges, a request of the Mark Composer comes to its own effect. -/
theorem Hall.outsideFrozen_checked {h : Hall} (hs : h.sup.state ≠ .frozen) {tests : List Bool}
    (ht : ∀ b ∈ tests, b = true) (a : Answer) : h.whenIn outsideFrozen (h.checked tests a) = a := by
  rw [Hall.whenIn_mem (HallState.mem_outsideFrozen hs), Hall.checked_pass ht]

/-! ## A counter named twice (R64 check 2) -/

/-- Fields that name no counter twice are passed over, and their counters are those named before the rest. -/
theorem repeatedSerial_append (rest : List Field) : ∀ (before : List Field) (seen : List Nat) (i : Nat),
    (seen ++ fieldCounters before).Nodup →
    repeatedSerial seen i (before ++ rest) =
      repeatedSerial ((fieldCounters before).reverse ++ seen) (i + before.length) rest
  | [], _, _, _ => rfl
  | f :: before, seen, i, h => by
    have hlen : i + 1 + before.length = i + (f :: before).length := by rw [List.length_cons]; omega
    cases hf : f.counter? with
    | none =>
      have hcounters : fieldCounters (f :: before) = fieldCounters before := List.filterMap_cons_none hf
      rw [hcounters] at h ⊢
      rw [List.cons_append, repeatedSerial, hf, ← hlen]
      exact repeatedSerial_append rest before seen (i + 1) h
    | some c =>
      have hcounters : fieldCounters (f :: before) = c :: fieldCounters before := List.filterMap_cons_some hf
      rw [hcounters] at h ⊢
      have h' : (c :: seen ++ fieldCounters before).Nodup := List.perm_middle.nodup_iff.1 h
      have hnew : seen.contains c = false := by
        simpa using fun hm => (List.nodup_cons.1 h').1 (List.mem_append_left _ hm)
      rw [List.cons_append, repeatedSerial, hf, ← hlen]
      simp only [hnew, Bool.false_eq_true, if_false, List.reverse_cons, List.append_assoc, List.singleton_append]
      exact repeatedSerial_append rest before (c :: seen) (i + 1) h'

theorem repeatedSerial_distinct {fields : List Field} (h : (fieldCounters fields).Nodup) :
    repeatedSerial [] 1 fields = none := by
  simpa [repeatedSerial] using repeatedSerial_append [] fields [] 1 h

theorem repeatedSerial_repeat {before : List Field} {m : Nat} (after : List Field) (h : (fieldCounters before).Nodup)
    (hm : m ∈ fieldCounters before) :
    repeatedSerial [] 1 (before ++ Field.serial m :: after) = some (before.length + 1) := by
  rw [repeatedSerial_append _ before [] 1 h, Nat.add_comm]
  simp [repeatedSerial, Field.counter?, hm]

/-! ## The lowest job that references a template (R63) -/

theorem least_eq_min? (l : List Nat) : least l = l.min? := by cases l <;> rfl

theorem Job.names_iff {t : Nat} {j : Job} : j.names t = true ↔ ∃ e ∈ j.entries, e.kind = .part ∧ e.template = t := by
  simp [Job.names]

section
variable {fl : Floor} {t : Nat}

theorem Floor.lowestReferrer_eq {j : Job} (hj : j ∈ fl.jobs) (hn : j.names t = true)
    (hlow : ∀ k ∈ fl.jobs, k.names t = true → j.id ≤ k.id) : fl.lowestReferrer t = some j.id := by
  rw [Floor.lowestReferrer, least_eq_min?, List.min?_eq_some_iff]
  refine ⟨List.mem_map_of_mem (List.mem_filter.2 ⟨hj, hn⟩), fun b hb => ?_⟩
  obtain ⟨k, hk, rfl⟩ := List.mem_map.1 hb
  obtain ⟨hk, hkn⟩ := List.mem_filter.1 hk
  exact hlow k hk hkn

theorem Floor.lowestReferrer_none (h : ∀ j ∈ fl.jobs, j.names t ≠ true) : fl.lowestReferrer t = none := by
  rw [Floor.lowestReferrer, List.filter_eq_nil_iff.2 h]
  rfl

end

/-! ## The answers -/

/-- The fields as the request gives them, when each of them is one. -/
theorem filterMap_fieldOf {raw : List RawField} {fields : List Field} (h : raw.map fieldOf = fields.map some) :
    raw.filterMap fieldOf = fields := by
  calc raw.filterMap fieldOf = (raw.map fieldOf).filterMap id := by rw [List.filterMap_map]; rfl
    _ = fields := by rw [h, List.filterMap_map]; exact List.filterMap_some

theorem templateTests_pass {id : Nat} {raw : List RawField} {fields : List Field} (hid : 1 ≤ id ∧ id ≤ 16)
    (hcount : raw.length ≤ 6) (h : raw.map fieldOf = fields.map some) :
    ∀ b ∈ [inRange 1 16 id, decide (raw.length ≤ 6)] ++ raw.map fun f => (fieldOf f).isSome, b = true := by
  have hfields : ∀ f ∈ raw, (fieldOf f).isSome = true := fun f hf => by
    obtain ⟨g, _, hg⟩ := List.mem_map.1 (h ▸ List.mem_map_of_mem (f := fieldOf) hf)
    rw [← hg]; rfl
  simpa [inRange, hid, hcount] using hfields

section
variable {h : Hall} {id : Nat} {raw : List RawField} {fields : List Field} (hs : h.sup.state ≠ .frozen)
  (hid : 1 ≤ id ∧ id ≤ 16) (hcount : raw.length ≤ 6) (hraw : raw.map fieldOf = fields.map some)
include hs hid hcount hraw

theorem Hall.defineTemplate_twice {i : Nat} (htwice : repeatedSerial [] 1 fields = some i) :
    h.defineTemplate id raw.length raw = ⟨.refused .duplicate (.field (2 + i)), h, []⟩ := by
  unfold Hall.defineTemplate
  rw [Hall.outsideFrozen_checked hs (templateTests_pass hid hcount hraw), filterMap_fieldOf hraw]
  dsimp only
  rw [htwice]
  rfl

theorem Hall.defineTemplate_inUse {j : Nat} (honce : repeatedSerial [] 1 fields = none)
    (hj : h.fl.lowestReferrer id = some j) :
    h.defineTemplate id raw.length raw = ⟨.refused .inUse (.job j), h, []⟩ := by
  unfold Hall.defineTemplate
  rw [Hall.outsideFrozen_checked hs (templateTests_pass hid hcount hraw), filterMap_fieldOf hraw]
  dsimp only
  rw [honce, hj]
  rfl

/-- With no counter named twice and no job that references the template, the width decides (R64 checks 4 and 5). -/
theorem Hall.defineTemplate_unused (honce : repeatedSerial [] 1 fields = none)
    (hj : h.fl.lowestReferrer id = none) :
    h.defineTemplate id raw.length raw =
      if 32 < worstWidth h.fl.counterWidth fields then
        ⟨.refused .templateTooLong (.number (worstWidth h.fl.counterWidth fields)), h, []⟩
      else
        ⟨.accepted (enc1 id ++ enc1 (worstWidth h.fl.counterWidth fields)), { h with templates :=
          (if raw.length = 0 then Table.drop Template.id id h.templates
           else Table.put Template.id ⟨id, fields⟩ h.templates) }, []⟩ := by
  unfold Hall.defineTemplate
  rw [Hall.outsideFrozen_checked hs (templateTests_pass hid hcount hraw), filterMap_fieldOf hraw]
  dsimp only
  rw [honce, hj]
  rfl

end

/-- Settles O41: the checks of DEFINE_TEMPLATE in their order, each with the answer of its case. -/
theorem templatesAreDefinedAndDeleted : Obligations.TemplatesAreDefinedAndDeleted := by
  unfold Obligations.TemplatesAreDefinedAndDeleted
  intro s tag id raw fields c counters width referenced hturn hs hid hid' hcount hraw
  refine ⟨fun before after m hfields hbefore hm => ?twice, fun honce => ?once⟩
  case twice =>
    have htwice : repeatedSerial [] 1 fields = some (before.length + 1) :=
      hfields ▸ repeatedSerial_repeat after hbefore hm
    exact State.answers_of hturn rfl (Hall.defineTemplate_twice hs ⟨hid, hid'⟩ hcount hraw htwice)
  case once =>
    replace honce : repeatedSerial [] 1 fields = none := repeatedSerial_distinct honce
    have hnames (j : Job) (hj : j ∈ s.hall.fl.jobs) : j.names id = true ↔ referenced j := by
      rw [Job.names_iff]; exact (and_iff_right hj).symm
    refine ⟨fun j hj hlow => ?_, fun hnone => ?_⟩
    · have hreferrer : s.hall.fl.lowestReferrer id = some j.id :=
        Floor.lowestReferrer_eq hj.1 ((hnames j hj.1).2 hj) fun k hk hkn => hlow k ((hnames k hk).1 hkn)
      exact State.answers_of hturn rfl (Hall.defineTemplate_inUse hs ⟨hid, hid'⟩ hcount hraw honce hreferrer)
    · have hreferrer : s.hall.fl.lowestReferrer id = none :=
        Floor.lowestReferrer_none fun j hj hn => hnone j ((hnames j hj).1 hn)
      have hanswer := Hall.defineTemplate_unused hs ⟨hid, hid'⟩ hcount hraw honce hreferrer
      exact ⟨fun hlong => State.answers_of hturn rfl (hanswer.trans (if_pos hlong)),
        fun hfits => State.answers_of hturn rfl (hanswer.trans (if_neg (Nat.not_lt.2 hfits)))⟩

end Sys2Proof.Machine
end
section
/-! SUPPORT. The exhausted counter a station is held on (R75): an event on a station names a counter in a station's record
only where that counter is exhausted, and no draw ends an exhaustion (R69, R70). -/
namespace Sys2Proof.Machine

/-- The counter is exhausted. -/
def Floor.ranOut (c : Nat) (fl : Floor) : Prop := ∃ k, fl.counter? c = some k ∧ k.exhausted = true

/-- Every station held on the counter is one of those still to be released, or the counter is exhausted. -/
def Work.heldOnlyOut (c : Nat) (left : List Nat) (w : Work) : Prop :=
  ∀ st ∈ w.fl.stations, st.exhausted = some c → st.num ∈ left ∨ w.fl.ranOut c

section
variable {x : Ctx} {w v : Work} {c : Nat} {left : List Nat}

/-! ## Counters under a composition (R70, R74, R75) -/

theorem Floor.ranOut.of_counters {fl fl' : Floor} (h : fl.ranOut c) (hs : fl'.counters = fl.counters) : fl'.ranOut c := by
  obtain ⟨k, hk, hout⟩ := h
  exact ⟨k, by simpa [Floor.counter?, hs] using hk, hout⟩

@[simp] theorem Counter.draw_id (d : Draw) (k : Counter) : (k.draw d).id = k.id := by
  unfold Counter.draw; split <;> rfl

theorem Counter.draw_exhausted (d : Draw) {k : Counter} (h : k.exhausted = true) : (k.draw d).exhausted = true := by
  unfold Counter.draw; split
  · rfl
  · exact h

theorem Floor.ranOut.draw (m : Nat) (d : Draw) (h : w.fl.ranOut c) : (w.onCounter m (Counter.draw d)).fl.ranOut c := by
  have hid : ∀ k : Counter, k.id = m → (k.draw d).id = m := fun k hk => (k.draw_id d).trans hk
  obtain ⟨k, hk, hout⟩ := h
  by_cases hm : c = m
  · subst hm
    refine ⟨k.draw d, ?_, Counter.draw_exhausted d hout⟩
    exact (Table.get_amend_self Counter.id hid _).trans (congrArg (Option.map _) hk)
  · exact ⟨k, (Table.get_amend_other Counter.id hm hid _).trans hk, hout⟩

theorem Floor.ranOut.noteSerial (m : Nat) (e : SerialCause) (h : w.fl.ranOut c) : (w.noteSerial x m e).fl.ranOut c :=
  h.of_counters (congrArg Floor.counters (Work.noteSerial_fl m e))

theorem Floor.ranOut.renderFields (src : MarkSource) (d : Draw) : ∀ (fs : List Field) {w : Work}, w.fl.ranOut c →
    (Machine.renderFields x src d fs w).2.fl.ranOut c
  | [], _, h => h
  | f :: fs, w, h => by
    unfold Machine.renderFields
    refine Floor.ranOut.renderFields src d fs ?_
    cases f with
    | serial m =>
      dsimp only
      split
      · exact h
      · split
        · exact (h.draw m d).noteSerial m _
        · exact h.draw m d
    | _ => exact h

theorem Floor.ranOut.compose (t : Nat) (src : MarkSource) (d : Draw) (h : w.fl.ranOut c) :
    (w.compose x t src d).2.fl.ranOut c := by
  unfold Work.compose
  dsimp only
  split
  · exact h.noteSerial _ _
  · exact h.renderFields src d _

/-- A composition is blocked by a counter that is exhausted (R75). -/
theorem Work.compose_blocked {t m : Nat} {src : MarkSource} {d : Draw} (h : w.compose x t src d = (.blocked m, v)) :
    v.fl.ranOut m := by
  unfold Work.compose at h
  dsimp only at h
  split at h
  · rename_i k hk
    cases h
    have hout := List.find?_some hk
    rw [Option.any_eq_true] at hout
    exact Floor.ranOut.noteSerial _ _ hout
  · cases h

/-! ## What leaves a station's exhausted counter -/

@[simp] theorem Station.goTo_exhausted (hall : HallState) (code : Nat) (s : StationState) (st : Station) :
    (st.goTo hall code s).exhausted = st.exhausted := by unfold Station.goTo; split <;> rfl
@[simp] theorem Station.dropEntryOrder_exhausted (st : Station) : st.dropEntryOrder.exhausted = st.exhausted := by
  unfold Station.dropEntryOrder; split <;> rfl
@[simp] theorem Station.onReason_exhausted (hall : HallState) (code : Nat) (st : Station) :
    (st.onReason hall code).exhausted = st.exhausted := by
  unfold Station.onReason
  split
  · split <;> simp
  · rfl
@[simp] theorem Station.rearm_exhausted (hall : HallState) (code : Nat) (o : Order) (st : Station) :
    (st.rearm hall code o).exhausted = st.exhausted := by unfold Station.rearm; split <;> rfl
@[simp] theorem Station.orderEntry_exhausted (o : Order) (st : Station) :
    (st.orderEntry o).exhausted = st.exhausted := by
  unfold Station.orderEntry
  split
  · split <;> rfl
  · rfl

/-! ## Changes of the records -/

/-- The stations stand, and an exhausted counter stays exhausted. -/
theorem Work.heldOnlyOut.of_stations (h : w.heldOnlyOut c left) (hs : v.fl.stations = w.fl.stations)
    (hc : w.fl.ranOut c → v.fl.ranOut c) : v.heldOnlyOut c left :=
  fun st hst he => (h st (hs ▸ hst) he).imp_right hc

theorem Work.heldOnlyOut.of_records (h : w.heldOnlyOut c left) (hs : v.fl.stations = w.fl.stations)
    (hc : v.fl.counters = w.fl.counters) : v.heldOnlyOut c left := h.of_stations hs fun h => h.of_counters hc

theorem Work.heldOnlyOut.of_fl (h : w.heldOnlyOut c left) (hs : v.fl = w.fl) : v.heldOnlyOut c left :=
  h.of_records (congrArg Floor.stations hs) (congrArg Floor.counters hs)

/-- A change of a station that keeps its number, and that names a counter in its record only if it is exhausted. -/
theorem Work.heldOnlyOut.onStation_named {m : Nat} {f : Station → Station} (h : w.heldOnlyOut c left)
    (hf : ∀ z : Station, (f z).num = z.num)
    (he : ∀ z : Station, (f z).exhausted = some c → z.exhausted = some c ∨ w.fl.ranOut c) :
    (w.onStation m f).heldOnlyOut c left := by
  intro st hst hc
  obtain ⟨z, hz, rfl⟩ := List.mem_map.1 hst
  by_cases hm : z.num = m
  · rw [if_pos hm] at hc ⊢
    rw [hf]
    exact (he z hc).elim (h z hz) .inr
  · rw [if_neg hm] at hc ⊢
    exact h z hz hc

theorem Work.heldOnlyOut.onStation {m : Nat} {f : Station → Station} (h : w.heldOnlyOut c left)
    (hf : ∀ z : Station, (f z).num = z.num := by intro _; rfl)
    (he : ∀ z : Station, (f z).exhausted = z.exhausted := by intro _; rfl) : (w.onStation m f).heldOnlyOut c left :=
  h.onStation_named hf fun z hz => .inl ((he z).symm.trans hz)

theorem Work.heldOnlyOut.onJob {id : Nat} (f : Job → Job) (h : w.heldOnlyOut c left) : (w.onJob id f).heldOnlyOut c left := h
theorem Work.heldOnlyOut.noteJob (id : Nat) (e : JobCause) (r m : Option Nat) (h : w.heldOnlyOut c left) :
    (w.noteJob x id e r m).heldOnlyOut c left := h.of_fl (Work.noteJob_fl _ _ _ _)

theorem Work.heldOnlyOut.enter (m : Nat) (s : StationState) (h : w.heldOnlyOut c left) :
    (w.enter x m s).heldOnlyOut c left := h.onStation (fun z => by simp) fun z => by simp

theorem Work.heldOnlyOut.changeState (m : Nat) (s : StationState) (h : w.heldOnlyOut c left) :
    (w.changeState x m s).heldOnlyOut c left := (h.enter m s).of_fl (Work.noteStation_fl _ _ _)

theorem Work.heldOnlyOut.addReason (m : Nat) {r : HoldReason} (h : w.heldOnlyOut c left) (hf : r ≠ .frozen) :
    (w.addReason x m r).heldOnlyOut c left := by
  cases hm : w.fl.station? m with
  | none => unfold Work.addReason; rw [hm]; exact h
  | some st =>
    cases hs : st.hold.has r with
    | true => rw [Work.addReason_present hm hs]; exact h
    | false => exact (h.onStation (fun z => by simp) fun z => by simp).of_fl (Work.addReason_fl hm hs hf)

/-! ## The outbox drained (R47, R49) -/

theorem Work.heldOnlyOut.compose {t : Nat} {src : MarkSource} {d : Draw} {r : Composed} (h : w.heldOnlyOut c left)
    (hv : w.compose x t src d = (r, v)) : v.heldOnlyOut c left := by
  have h' : (w.compose x t src d).2.heldOnlyOut c left :=
    h.of_stations (Work.compose_stations t src d) fun hout => hout.compose t src d
  rwa [hv] at h'

theorem Work.heldOnlyOut.queueHead {m : Nat} {o : Order} {entry : Nat → Option InProgress} (h : w.heldOnlyOut c left)
    (hv : w.queueHead x m o entry = some v) : v.heldOnlyOut c left := by
  obtain ⟨r, hr, rfl⟩ := Option.map_eq_some_iff.1 hv
  obtain ⟨_, _, node, _, _, hnode⟩ := Work.handOrder_some hr
  have h' : r.2.heldOnlyOut c left := h.of_records (by rw [hnode]; rfl) (by rw [hnode]; rfl)
  refine h'.onStation (fun z => ?_) fun z => ?_
  · dsimp only
    split <;> simp
  · dsimp only
    split <;> simp

/-- A mark blocked by an exhausted counter holds its station on that counter (R75). -/
theorem Work.heldOnlyOut.block {m k : Nat} (h : w.heldOnlyOut c left) (hout : w.fl.ranOut k) :
    ((w.onStation m fun st => { st with exhausted := some k }).addReason x m .serialExhausted).heldOnlyOut c left := by
  refine Work.heldOnlyOut.addReason m (h.onStation_named (fun _ => rfl) fun z hz => ?_) (by decide)
  cases hz
  exact .inr hout

theorem Work.heldOnlyOut.drainStation (m : Nat) : ∀ (fuel : Nat) {w : Work}, w.heldOnlyOut c left →
    (Machine.drainStation x m fuel w).heldOnlyOut c left
  | 0, _, h => h
  | fuel + 1, w, h => by
    have hnext {o : Order} {entry : Nat → Option InProgress} {u : Work} (hu : u.heldOnlyOut c left) :
        (match u.queueHead x m o entry with
          | some v => Machine.drainStation x m fuel v
          | none => u).heldOnlyOut c left := by
      split
      · rename_i hq; exact Work.heldOnlyOut.drainStation m fuel (hu.queueHead hq)
      · exact hu
    unfold Machine.drainStation
    split
    · exact h
    · split
      · exact h
      · split
        · exact h
        · split
          · split
            · exact h
            · split
              · rename_i hc
                exact (h.compose hc).block (Work.compose_blocked hc)
              · rename_i hc
                exact hnext (h.compose hc)
          · split
            · exact h.addReason m (by decide)
            · exact hnext h
          · exact hnext h

/-! ## The flow of a job -/

theorem Work.closeJob_counters (id : Nat) (o : JobOutcome) (figures : Option (Nat × Nat)) :
    (w.closeJob x id o figures).fl.counters = w.fl.counters := by
  unfold Work.closeJob
  split <;> rfl

theorem Work.heldOnlyOut.endUncut (j : Job) (o : JobOutcome) (h : w.heldOnlyOut c left) :
    (w.endUncut x j o).heldOnlyOut c left := by
  have hfree : (w.freePlate j.plate).heldOnlyOut c left := h
  have hloaded := (hfree.onStation (m := j.station) (f := fun st => { st with job := none, phase := none })).enter
    (x := x) j.station .loaded
  exact (hloaded.of_records (Work.closeJob_stations _ _ _) (Work.closeJob_counters _ _ _)).of_fl (Work.noteStation_fl _ _ _)

theorem Work.heldOnlyOut.beginCloseOut (j : Job) (o : JobOutcome) (h : w.heldOnlyOut c left) :
    (w.beginCloseOut x j o).heldOnlyOut c left := ((h.onJob _).noteJob _ _ _ _).changeState _ _

theorem Work.heldOnlyOut.endJob (id : Nat) (o : JobOutcome) (h : w.heldOnlyOut c left) :
    (w.endJob x id o).heldOnlyOut c left := by
  unfold Work.endJob
  split
  · exact h
  · dsimp only
    split
    · exact (h.onJob _).beginCloseOut _ _
    · exact (h.onJob _).endUncut _ _

theorem Work.heldOnlyOut.orderIt (m : Nat) (o : Order) (h : w.heldOnlyOut c left) :
    (w.orderIt x m o).heldOnlyOut c left := by
  unfold Work.orderIt
  split
  · exact (h.onStation (fun z => by simp) fun z => by simp).drainStation m 5
  · exact h.changeState _ _

theorem Work.heldOnlyOut.orderBurn (m : Nat) (j : Job) (h : w.heldOnlyOut c left) :
    (w.orderBurn x m j).heldOnlyOut c left := by
  unfold Work.orderBurn
  split
  · exact h.endJob _ _
  · split
    · exact h
    · exact h.orderIt _ _

theorem Work.heldOnlyOut.orderNext (m : Nat) (h : w.heldOnlyOut c left) : (w.orderNext x m).heldOnlyOut c left := by
  unfold Work.orderNext
  split
  · exact h
  · split
    · exact h
    · split
      · split
        · exact h.orderIt _ _
        · exact (h.onStation.changeState _ _).orderBurn _ _
      · exact h.orderBurn _ _
      · exact h

theorem Work.heldOnlyOut.handReady (m : Nat) (h : w.heldOnlyOut c left) : (w.handReady x m).heldOnlyOut c left := by
  have hjob (id : Nat) : (w.handJob x id).heldOnlyOut c left := by
    unfold Work.handJob
    split
    · exact h
    · split
      · exact (((h.onJob _).noteJob _ _ _ _).onStation.changeState _ _).orderNext _
      · exact h
  unfold Work.handReady
  split
  · exact hjob _
  · exact h

theorem Work.heldOnlyOut.setEmptied (m : Nat) (h : w.heldOnlyOut c left) : (w.setEmptied x m).heldOnlyOut c left := by
  unfold Work.setEmptied
  split
  · exact h
  · refine Work.heldOnlyOut.handReady m ?_
    split
    · exact (h.changeState _ _).orderNext _
    · split
      · exact h.changeState _ _
      · exact h

/-- A reason removed from any station: what follows at the event holds a station on exhausted counters alone. -/
theorem Work.heldOnlyOut.removeReason (m : Nat) (r : HoldReason) (h : w.heldOnlyOut c left) :
    (w.removeReason x m r).heldOnlyOut c left := by
  cases hm : w.fl.station? m with
  | none => unfold Work.removeReason; rw [hm]; exact h
  | some st =>
    cases hr : st.hold.has r with
    | false => rw [Work.removeReason_absent hm hr]; exact h
    | true =>
      have hwithout : (w.withoutReason x m r st).heldOnlyOut c left :=
        h.onStation (m := m) (f := fun z => { z with hold := z.hold.set r false })
      rw [Work.removeReason_present hm hr]
      split
      · exact hwithout.setEmptied m
      · exact hwithout

end

end Sys2Proof.Machine
end
section
/-! SUPPORT. SET_COUNTER (R71, R72): what it answers, and what releasing the stations held on a counter leaves. -/
namespace Sys2Proof.Machine

/-! ## Tables whose entries are told apart by their numbers -/

theorem nodup_of_ascending {α : Type} {key : α → Nat} {l : List α} (h : (l.map key).Pairwise (· < ·)) :
    (l.map key).Nodup := h.imp Nat.ne_of_lt

section
variable {α : Type} {key : α → Nat} {n : Nat} {f g : α → α} {l : List α}

theorem Table.eq_of_get {a b : α} (hk : (l.map key).Nodup) (ha : Table.get key n l = some a) (hb : b ∈ l)
    (hn : key b = n) : b = a := by
  have hget := Table.get_of_mem key hk hb
  rw [hn, ha] at hget
  exact (Option.some.inj hget).symm

theorem Table.amend_congr (h : ∀ a ∈ l, key a = n → f a = g a) : Table.amend key n f l = Table.amend key n g l :=
  List.map_congr_left fun a ha => by
    split
    · exact h a ha ‹_›
    · rfl

theorem Table.amend_amend (hf : ∀ a, key a = n → key (f a) = n) :
    Table.amend key n g (Table.amend key n f l) = Table.amend key n (g ∘ f) l := by
  unfold Table.amend
  rw [List.map_map]
  refine List.map_congr_left fun a _ => ?_
  by_cases ha : key a = n
  · simp [ha, hf a ha]
  · simp [ha]

end

/-! ## A station released from an exhausted counter (R71, R52) -/

/-- A station's record that names no exhausted counter. -/
def Station.unnamed (st : Station) : Station := { st with exhausted := none }

/-- A station let go of by its exhausted counter: SERIAL_EXHAUSTED out of its hold set, and the counter no longer named. -/
def Station.released (st : Station) : Station :=
  { st with exhausted := none, hold := st.hold.set .serialExhausted false }

/-- One station released, as SET_COUNTER has it. -/
def Work.release (x : Ctx) (w : Work) (n : Nat) : Work :=
  (w.onStation n Station.unnamed).removeReason x n .serialExhausted

@[simp] theorem Station.unnamed_num (st : Station) : st.unnamed.num = st.num := rfl
@[simp] theorem Station.released_num (st : Station) : st.released.num = st.num := rfl
@[simp] theorem Station.released_released (st : Station) : st.released.released = st.released := rfl

theorem HoldSet.set_eq_self {h : HoldSet} {r : HoldReason} {v : Bool} (hr : h.has r = v) : h.set r v = h := by
  cases r <;> cases hr <;> rfl

/-- A set that holds another reason is not emptied by the one that leaves it. -/
theorem HoldSet.set_ne_empty {h : HoldSet} {r q : HoldReason} (hq : q ≠ r) (hh : h.has q = true) :
    h.set r false ≠ {} := by
  intro he
  have hset := HoldSet.has_set h r q false
  rw [if_neg hq, hh, he] at hset
  cases q <;> cases hset

/-- Another reason holds the station. -/
def Station.heldOtherwise (st : Station) : Prop := ∃ r, r ≠ .serialExhausted ∧ st.hold.has r = true

theorem Station.released_heldOtherwise {st : Station} (h : st.heldOtherwise) : st.released.heldOtherwise := by
  obtain ⟨r, hr, hh⟩ := h
  exact ⟨r, hr, (HoldSet.has_set _ _ _ _).trans ((if_neg hr).trans hh)⟩

section
variable {x : Ctx} {w : Work} {c n : Nat}

theorem Work.onStation_onStation {f g : Station → Station} (hf : ∀ z : Station, z.num = n → (f z).num = n) :
    (w.onStation n f).onStation n g = w.onStation n (g ∘ f) := by
  simp only [Work.onStation, Table.amend_amend hf]

theorem Work.withoutReason_fl (r : HoldReason) (st : Station) :
    (w.withoutReason x n r st).fl = (w.onStation n fun z => { z with hold := z.hold.set r false }).fl := rfl

/-- A station that another reason holds is released with no change beside its own record. -/
theorem Work.release_fl {st : Station} (hk : (w.fl.stations.map Station.num).Nodup) (hst : w.fl.station? n = some st)
    (hheld : st.heldOtherwise) : (w.release x n).fl = (w.onStation n Station.released).fl := by
  have hst' := Work.station?_onStation_some (f := Station.unnamed) hst fun _ hz => hz
  obtain ⟨r, hr, hh⟩ := hheld
  unfold Work.release
  cases hs : st.hold.has .serialExhausted with
  | false =>
    rw [Work.removeReason_absent hst' hs]
    have hsame : ∀ z ∈ w.fl.stations, z.num = n → z.unnamed = z.released := fun z hz hn => by
      rw [Table.eq_of_get hk hst hz hn, Station.released, HoldSet.set_eq_self hs]
      rfl
    simp only [Work.onStation, Table.amend_congr hsame]
  | true =>
    have hleft : st.unnamed.hold.set .serialExhausted false ≠ {} := HoldSet.set_ne_empty hr hh
    rw [Work.removeReason_present hst' hs, if_neg hleft]
    rw [Work.withoutReason_fl, Work.onStation_onStation fun z hz => by simpa using hz]
    rfl

/-- The stations of a list released: each holds another reason, and none is changed beside its own record. -/
theorem Work.releases_fl : ∀ (l : List Nat) {w : Work}, (w.fl.stations.map Station.num).Nodup →
    (∀ n ∈ l, ∃ st, w.fl.station? n = some st ∧ st.heldOtherwise) →
    (l.foldl (Work.release x) w).fl =
      { w.fl with stations := w.fl.stations.map fun st => if st.num ∈ l then st.released else st }
  | [], w, _, _ => by simp
  | n :: l, w, hk, h => by
    obtain ⟨st, hst, hheld⟩ := h n List.mem_cons_self
    have hfl := Work.release_fl (x := x) hk hst hheld
    have hk' : ((w.release x n).fl.stations.map Station.num).Nodup := by
      rw [hfl]
      exact (Table.keys_amend Station.num (f := Station.released) (fun _ hz => hz) _).symm ▸ hk
    have h' : ∀ m ∈ l, ∃ st, (w.release x n).fl.station? m = some st ∧ st.heldOtherwise := by
      intro m hm
      obtain ⟨z, hz, hheld'⟩ := h m (List.mem_cons_of_mem _ hm)
      rw [hfl]
      by_cases hmn : m = n
      · subst hmn
        exact ⟨z.released, Work.station?_onStation_some hz fun _ hz => hz, Station.released_heldOtherwise hheld'⟩
      · exact ⟨z, (Table.get_amend_other Station.num hmn (f := Station.released) (fun _ hz => hz) _).trans hz, hheld'⟩
    have hmap : (Table.amend Station.num n Station.released w.fl.stations).map
        (fun st => if st.num ∈ l then st.released else st) =
        w.fl.stations.map fun st => if st.num ∈ n :: l then st.released else st := by
      rw [Table.amend, List.map_map]
      refine List.map_congr_left fun st _ => ?_
      by_cases hn : st.num = n <;> by_cases hl : st.num ∈ l <;> simp [hn, hl]
    rw [List.foldl_cons, Work.releases_fl l hk' h', hfl, ← hmap]
    rfl

/-- A release leaves the stations still to be released, and holds none on the counter but where it is exhausted. -/
theorem Work.heldOnlyOut.release {left : List Nat} (h : w.heldOnlyOut c (n :: left)) :
    (w.release x n).heldOnlyOut c left := by
  refine Work.heldOnlyOut.removeReason n _ fun st hst hc => ?_
  obtain ⟨z, hz, rfl⟩ := List.mem_map.1 hst
  by_cases hn : z.num = n
  · rw [if_pos hn] at hc; cases hc
  · rw [if_neg hn] at hc ⊢
    exact (h z hz hc).imp_left fun hm => (List.mem_cons.1 hm).resolve_left hn

theorem Work.heldOnlyOut.releases : ∀ (l : List Nat) {w : Work}, w.heldOnlyOut c l →
    (l.foldl (Work.release x) w).heldOnlyOut c []
  | [], _, h => h
  | _ :: l, _, h => Work.heldOnlyOut.releases l h.release

/-! ## The stations held on a counter -/

theorem Floor.num_mem_heldOn {fl : Floor} {st : Station} (h : st ∈ fl.stations) (hc : st.exhausted = some c) :
    st.num ∈ fl.heldOn c := List.mem_map_of_mem (List.mem_filter.2 ⟨h, by simp [hc]⟩)

theorem Floor.num_mem_heldOn_iff {fl : Floor} {st : Station} (hk : (fl.stations.map Station.num).Nodup)
    (h : st ∈ fl.stations) : st.num ∈ fl.heldOn c ↔ st.exhausted = some c := by
  refine ⟨fun hm => ?_, Floor.num_mem_heldOn h⟩
  obtain ⟨z, hz, hn⟩ := List.mem_map.1 hm
  obtain ⟨hz, hc⟩ := List.mem_filter.1 hz
  have heq : st = z := Table.eq_of_get hk (Table.get_of_mem Station.num hk hz) h hn.symm
  exact heq ▸ beq_iff_eq.1 hc

/-! ## The counter set (R71) -/

section
variable {width next : Nat} {k : Counter}

/-- A counter set, before the stations held on it are released. -/
theorem Work.counter?_reset (h : w.fl.counter? c = some k) :
    (w.onCounter c (Counter.reset width next)).fl.counter? c = some (k.reset width next) :=
  (Table.get_amend_self Counter.id (f := Counter.reset width next) (fun _ hz => hz) _).trans (congrArg (Option.map _) h)

/-- The steps of SET_COUNTER: the counter set, the stations held on it released, the SERIAL notice of the counter as it was
set. -/
theorem Work.setCounter_eq (h : w.fl.counter? c = some k) :
    w.setCounter x c width next =
      ((w.fl.heldOn c).foldl (Work.release x) (w.onCounter c (Counter.reset width next))).note x
        (.serial (.set (w.fl.heldOn c)) (k.reset width next)) := by
  unfold Work.setCounter
  dsimp only
  rw [Work.counter?_reset h]
  rfl

/-- Where other reasons hold every station held on the counter, SET_COUNTER changes the counter and those stations. -/
theorem Work.setCounter_fl (hk : w.fl.keyed) (h : w.fl.counter? c = some k)
    (hheld : ∀ st ∈ w.fl.stations, st.exhausted = some c → st.heldOtherwise) :
    (w.setCounter x c width next).fl = { w.fl with
      counters := w.fl.counters.map fun q => if q.id = c then k.reset width next else q
      stations := w.fl.stations.map fun st => if st.exhausted = some c then st.released else st } := by
  obtain ⟨-, -, -, hstations, hcounters, -⟩ := hk
  replace hstations := nodup_of_ascending hstations
  have hamend : Table.amend Counter.id c (Counter.reset width next) w.fl.counters =
      Table.amend Counter.id c (fun _ => k.reset width next) w.fl.counters :=
    Table.amend_congr fun q hq hn => congrArg _ (Table.eq_of_get (nodup_of_ascending hcounters) h hq hn)
  have hmap : w.fl.stations.map (fun st => if st.num ∈ w.fl.heldOn c then st.released else st) =
      w.fl.stations.map fun st => if st.exhausted = some c then st.released else st :=
    List.map_congr_left fun st hst => by simp only [Floor.num_mem_heldOn_iff hstations hst]
  have hstation : ∀ n ∈ w.fl.heldOn c, ∃ st, w.fl.station? n = some st ∧ st.heldOtherwise := fun n hn => by
    obtain ⟨st, hst, rfl⟩ := List.mem_map.1 hn
    obtain ⟨hst, hc⟩ := List.mem_filter.1 hst
    exact ⟨st, Table.get_of_mem Station.num hstations hst, hheld st hst (beq_iff_eq.1 hc)⟩
  rw [Work.setCounter_eq h]
  refine (Work.releases_fl (w := w.onCounter c (Counter.reset width next)) _ hstations hstation).trans ?_
  simp only [Work.onCounter, hamend, hmap]
  rfl

/-- After SET_COUNTER a station is held on the counter only where it has been exhausted again. -/
theorem Work.setCounter_heldOnlyOut (h : w.fl.counter? c = some k) :
    (w.setCounter x c width next).heldOnlyOut c [] := by
  have hset : (w.onCounter c (Counter.reset width next)).heldOnlyOut c (w.fl.heldOn c) :=
    fun st hst hc => .inl (Floor.num_mem_heldOn hst hc)
  rw [Work.setCounter_eq h]
  exact (Work.heldOnlyOut.releases (x := x) _ hset).of_fl rfl

end

end

/-! ## The answers -/

section
variable {h : Hall} {id width next : Nat} {k : Counter}

theorem counterTests_pass (hid : 1 ≤ id ∧ id ≤ 8) (hwidth : 1 ≤ width ∧ width ≤ 8) (hnext : next < 10 ^ width) :
    ∀ b ∈ [inRange 1 8 id, inRange 1 8 width, decide (next < 10 ^ width)], b = true := by
  simp [inRange, *]

variable (hs : h.sup.state ≠ .frozen) (hid : 1 ≤ id ∧ id ≤ 8) (hwidth : 1 ≤ width ∧ width ≤ 8)
  (hnext : next < 10 ^ width) (hk : h.fl.counter? id = some k)
include hs hid hwidth hnext hk

theorem Hall.setCounter_backwards {l : Nat} (hl : k.last = some l) (hle : next ≤ l) :
    h.setCounter id width next = ⟨.refused .counterBackwards (.number l), h, []⟩ := by
  have hlast : k.last.filter (fun l => decide (next ≤ l)) = some l := by simp [hl, hle]
  unfold Hall.setCounter
  rw [Hall.outsideFrozen_checked hs (counterTests_pass hid hwidth hnext), hk]
  dsimp only
  rw [hlast]
  rfl

/-- With next above the last issued value, the templates that name the counter decide (R71 check 4). -/
theorem Hall.setCounter_forward (hlast : ∀ l, k.last = some l → l < next) :
    (∀ t, h.templateOver id width = some t →
      h.setCounter id width next = ⟨.refused .templateTooLong (.template t), h, []⟩)
    ∧ (h.templateOver id width = none →
      h.setCounter id width next = h.acceptWith ((k.reset width next).encode ++ encList enc1 (h.fl.heldOn id)) fun x w =>
        w.setCounter x id width next) := by
  have hnone : k.last.filter (fun l => decide (next ≤ l)) = none := by
    simpa [Option.filter_eq_none_iff] using hlast
  unfold Hall.setCounter
  rw [Hall.outsideFrozen_checked hs (counterTests_pass hid hwidth hnext), hk]
  dsimp only
  rw [hnone]
  exact ⟨fun t ht => by rw [ht]; rfl, fun ht => by rw [ht]⟩

end

/-- Settles O42: the checks of SET_COUNTER in their order; the effect is the counter set and the stations held on it
released, after which the counter holds a station only where a new draw has exhausted it. -/
theorem countersAreSetForward : Obligations.CountersAreSetForward := by
  unfold Obligations.CountersAreSetForward
  intro s tag id width next k c k' on hturn hs hid hid' hwidth hwidth' hnext hk
  refine ⟨fun l hl hle => State.answers_of hturn rfl
    (Hall.setCounter_backwards hs ⟨hid, hid'⟩ ⟨hwidth, hwidth'⟩ hnext hk hl hle), fun hlast => ?_⟩
  obtain ⟨htoo, hset⟩ := Hall.setCounter_forward hs ⟨hid, hid'⟩ ⟨hwidth, hwidth'⟩ hnext hk hlast
  refine ⟨fun t ht => State.answers_of hturn rfl (htoo t ht),
    fun ht => ⟨State.answers_of hturn rfl (hset ht), fun hkeyed x w hw => ?_⟩⟩
  obtain ⟨-, hfloor, -⟩ := hkeyed
  rw [← hw] at hfloor hk ⊢
  have hon : on = w.fl.heldOn id := by rw [hw]; rfl
  refine ⟨Work.counter?_reset hk, ?notice, fun hheld => ⟨?counter, ?floor⟩, fun st hst hc => ?held⟩
  case notice =>
    rw [hon, Work.setCounter_eq hk]
    exact List.getLast?_concat
  case floor => exact Work.setCounter_fl hfloor hk hheld
  case counter =>
    have hkey : k.id = id := Table.key_of_get Counter.id hk
    rw [Work.setCounter_fl hfloor hk hheld]
    exact (Table.get_amend_self Counter.id (f := fun _ => k') (fun _ _ => hkey) _).trans (congrArg (Option.map _) hk)
  case held => exact (Work.setCounter_heldOnlyOut hk st hst hc).resolve_left List.not_mem_nil

end Sys2Proof.Machine
end
section
/-! SUPPORT. CANCEL_JOB and CANCEL_MOVE (R89, R110): what each answers by the state of the job or of the host move, and what
it leaves of the floor. -/
namespace Sys2Proof.Machine

/-! ## Requests in READY, RUN, HOLDING and HELD -/

section
variable {h : Hall} (hw : h.working)
include hw

theorem Hall.working.mem : h.sup.state ∈ workingStates := by
  simpa [Hall.working, workingStates] using hw

/-- With its fields within their ranges, a request of these states comes to its own effect. -/
theorem Hall.working.checked {tests : List Bool} (ht : ∀ b ∈ tests, b = true) (a : Answer) :
    h.whenIn workingStates (h.checked tests a) = a := by
  rw [Hall.whenIn_mem hw.mem, Hall.checked_pass ht]

/-! ## The answers of CANCEL_JOB -/

theorem Hall.cancelJob_unknown {n : Nat} (hn : h.fl.job? n = none) : h.cancelJob n = h.refuse .unknownItem .none := by
  unfold Hall.cancelJob
  rw [Hall.whenIn_mem hw.mem, hn]

theorem Hall.cancelJob_present {n : Nat} {j : Job} (hn : h.fl.job? n = some j) : h.cancelJob n = h.cancelPresent j := by
  unfold Hall.cancelJob
  rw [Hall.whenIn_mem hw.mem, hn]

end

section
variable {h : Hall} {j : Job}

theorem Hall.cancelPresent_unstarted (hs : j.state = .queued ∨ j.state = .ready) :
    h.cancelPresent j = h.acceptWith (cancelReply false) fun x w => w.cancelNow x j := by
  unfold Hall.cancelPresent
  rcases hs with hs | hs <;> rw [hs]

theorem Hall.cancelPresent_pending (hs : j.state = .staging) (hp : j.cancelPending = true) :
    h.cancelPresent j = h.accept (cancelReply true) := by
  unfold Hall.cancelPresent
  rw [hs]
  exact if_pos hp

/-- The staging move decides: deleted while it is WAITING, awaited once it is in a crane's hands or gone (R89). -/
theorem Hall.cancelPresent_waiting {t : Nat} {m : Move} (hs : j.state = .staging) (hp : j.cancelPending = false)
    (ht : j.stagingTag = some t) (hm : h.fl.move? t = some m) (hwait : m.state = .waiting) :
    h.cancelPresent j = h.acceptWith (cancelReply false) fun x w => (w.deleteMove x t).cancelNow x j := by
  have hsome : (j.stagingTag.bind h.fl.move?).filter (fun m => m.state == MoveState.waiting) = some m := by
    rw [ht, Option.bind_some, hm, Option.filter_some, hwait]
    rfl
  obtain rfl : m.tag = t := Table.key_of_get Move.tag hm
  unfold Hall.cancelPresent
  rw [hs]
  simp only [hp, hsome]
  rfl

theorem Hall.cancelPresent_moving (hs : j.state = .staging) (hp : j.cancelPending = false)
    (hm : ∀ t m, j.stagingTag = some t → h.fl.move? t = some m → m.state ≠ .waiting) :
    h.cancelPresent j = h.acceptWith (cancelReply true) fun x w => w.deferCancel x j := by
  have hnone : (j.stagingTag.bind h.fl.move?).filter (fun m => m.state == MoveState.waiting) = none := by
    rw [Option.filter_eq_none_iff]
    intro m hbind
    obtain ⟨t, ht, hmove⟩ := Option.bind_eq_some_iff.1 hbind
    simpa using hm t m ht hmove
  unfold Hall.cancelPresent
  rw [hs]
  simp only [hp, hnone]
  rfl

theorem Hall.cancelPresent_closing {q : CloseOut} (hs : j.state = .closing) (hq : j.closeOut = some q) :
    h.cancelPresent j = h.refuse .closing (.enumerated 15 q.step.code) := by
  unfold Hall.cancelPresent
  rw [hs]
  simp [Job.step?, hq, stepDetail]

theorem Hall.cancelPresent_active {st : Station} (hs : j.state = .active) (hst : h.fl.station? j.station = some st) :
    h.cancelPresent j =
      if st.state = .held then h.acceptWith (cancelReply false) fun x w => w.endJob x j.id .cancelled
      else h.refuse .active st.state.detail := by
  unfold Hall.cancelPresent
  rw [hs]
  dsimp only
  rw [hst]

end

/-! ## The answers of CANCEL_MOVE -/

section
variable {h : Hall} {n : Nat} (hw : h.working) (hn : n ≤ 31)
include hw hn

theorem Hall.cancelMove_unknown (hm : h.fl.move? n = none) : h.cancelMove n = h.refuse .unknownItem .none := by
  unfold Hall.cancelMove
  rw [hw.checked (by simpa using hn), hm]

variable {m : Move} (hm : h.fl.move? n = some m)
include hm

theorem Hall.cancelMove_jobOwned {j : Nat} (ho : m.origin = .job j) : h.cancelMove n = h.refuse .jobOwned .none := by
  unfold Hall.cancelMove
  rw [hw.checked (by simpa using hn), hm]
  dsimp only
  rw [ho]

theorem Hall.cancelMove_yield (ho : m.origin = .yield) : h.cancelMove n = h.refuse .inMotion .none := by
  unfold Hall.cancelMove
  rw [hw.checked (by simpa using hn), hm]
  dsimp only
  rw [ho]

theorem Hall.cancelMove_host (ho : m.origin = .host) : h.cancelMove n = h.cancelHost m := by
  unfold Hall.cancelMove
  rw [hw.checked (by simpa using hn), hm]
  dsimp only
  rw [ho]

end

section
variable {h : Hall} {m : Move}

theorem Hall.cancelHost_waiting (hs : m.state = .waiting) :
    h.cancelHost m = h.acceptWith [] fun x w => w.deleteMove x m.tag := by
  unfold Hall.cancelHost
  rw [hs]

theorem Hall.cancelHost_bound (hs : m.state = .bound) :
    h.cancelHost m = h.acceptWith [] fun x w => (w.unbind x m.tag).deleteMove x m.tag := by
  unfold Hall.cancelHost
  rw [hs]
  rfl

theorem Hall.cancelHost_inHands (hs : (∃ p, m.state = .phase p) ∨ ∃ p q, m.state = .suspended p q) :
    h.cancelHost m = h.refuse .inMotion (.enumerated 19 m.state.code) := by
  unfold Hall.cancelHost
  rcases hs with ⟨p, hs⟩ | ⟨p, q, hs⟩ <;> rw [hs] <;> rfl

end

/-! ## What a cancellation leaves of the floor -/

section
variable {w : Work} {x : Ctx}

theorem Work.closeJob_fl {n : Nat} {j : Job} (hn : w.fl.job? n = some j) (o : JobOutcome) (figures : Option (Nat × Nat)) :
    (w.closeJob x n o figures).fl = { w.fl with jobs := w.fl.jobs.filter fun k => k.id != n } := by
  unfold Work.closeJob
  rw [hn]
  rfl

@[simp] theorem Work.claimEnded_fl (p : Place) : (w.claimEnded p).fl = w.fl := by
  unfold Work.claimEnded
  split
  · split <;> rfl
  · rfl

theorem Work.removeMove_fl (m : Move) :
    (w.removeMove m).fl = { w.fl with moves := w.fl.moves.filter fun k => k.tag != m.tag } := by
  unfold Work.removeMove
  cases isInternal m.tag <;> simp [Table.drop]

theorem Work.deleteMove_fl {t : Nat} {m : Move} (hm : w.fl.move? t = some m) :
    (w.deleteMove x t).fl = { w.fl with moves := w.fl.moves.filter fun k => k.tag != t } := by
  have htag : m.tag = t := Table.key_of_get Move.tag hm
  unfold Work.deleteMove
  rw [hm]
  dsimp only
  rw [Work.removeMove_fl, Work.noteMove_fl, htag]

/-- A move deleted is no longer present, whatever came before. -/
theorem Work.move?_deleteMove (t : Nat) : (w.deleteMove x t).fl.move? t = none := by
  cases hm : w.fl.move? t with
  | none => unfold Work.deleteMove; rw [hm]; exact hm
  | some m => rw [Work.deleteMove_fl hm]; exact Table.get_drop_self Move.tag t w.fl.moves

end

/-! ## The obligation -/

/-- Settles O44: each request looks its record up, and the state of what it finds decides. -/
theorem cancellationsFollowTheState : Obligations.CancellationsFollowTheState := by
  unfold Obligations.CancellationsFollowTheState
  intro s tag n hw
  refine ⟨fun ht => ⟨fun hn => State.answers_of ht rfl (Hall.cancelJob_unknown hw hn), fun j hn => ?job⟩,
    fun ht hle => ⟨fun hm => State.answers_of ht rfl (Hall.cancelMove_unknown hw hle hm), fun m hm => ?move⟩⟩
  case job =>
    obtain rfl : j.id = n := Table.key_of_get Job.id hn
    have answered {r : Reply} {hall : Hall} {out : List Notice} (ha : s.hall.cancelPresent j = ⟨r, hall, out⟩) :
        s.answers (.cancelJob tag j.id) tag r hall out :=
      State.answers_of ht rfl ((Hall.cancelJob_present hw hn).trans ha)
    refine ⟨fun hs => answered (Hall.cancelPresent_unstarted hs), fun t hs hwait hp => ?waiting,
      fun hs hwait hp => answered (Hall.cancelPresent_moving hs hp fun t m htag hm hstate => hwait t ⟨htag, m, hm, hstate⟩),
      fun hs hp => answered (Hall.cancelPresent_pending hs hp),
      fun hs q hq => answered (Hall.cancelPresent_closing hs hq),
      fun st hs hst => ⟨fun hheld => answered ((Hall.cancelPresent_active hs hst).trans (if_pos hheld)),
        fun hheld => answered ((Hall.cancelPresent_active hs hst).trans (if_neg hheld))⟩,
      fun x w hfl => ?closed⟩
    case waiting =>
      obtain ⟨htag, m, hm, hstate⟩ := hwait
      exact answered (Hall.cancelPresent_waiting hs hp htag hm hstate)
    case closed =>
      rw [← hfl] at hn ⊢
      exact Work.closeJob_fl hn _ _
  case move =>
    obtain rfl : m.tag = n := Table.key_of_get Move.tag hm
    have answered {r : Reply} {hall : Hall} {out : List Notice} (ho : m.origin = .host)
        (ha : s.hall.cancelHost m = ⟨r, hall, out⟩) : s.answers (.cancelMove tag m.tag) tag r hall out :=
      State.answers_of ht rfl ((Hall.cancelMove_host hw hle hm ho).trans ha)
    refine ⟨fun _ ho => State.answers_of ht rfl (Hall.cancelMove_jobOwned hw hle hm ho),
      fun ho => State.answers_of ht rfl (Hall.cancelMove_yield hw hle hm ho),
      fun ho hs => ⟨answered ho (Hall.cancelHost_waiting hs), fun x w hfl => ?deleted⟩,
      fun ho hs => ⟨answered ho (Hall.cancelHost_bound hs), fun x w _ => Work.move?_deleteMove m.tag⟩,
      fun ho hs => answered ho (Hall.cancelHost_inHands hs)⟩
    rw [← hfl] at hm ⊢
    exact Work.deleteMove_fl hm

end Sys2Proof.Machine
end
section
/-! SUPPORT. SCRAP_REMNANT and SKELETON_MANUAL (R95, R98): the remnant on the bed, the move in a crane's hands, and what each
request answers. -/
namespace Sys2Proof.Machine

/-! ## The remnant on the bed and the move in a crane's hands -/

section
variable {fl : Floor}

theorem Floor.bedRemnant_eq_some_iff {n r : Nat} {c : CloseOut} :
    fl.bedRemnant n c = some r ↔
      c.remnant = some r ∧ c.step = .store ∧ ∃ st, fl.station? n = some st ∧ st.bed = some r := by
  simp [Floor.bedRemnant, Option.filter_eq_some_iff, Option.any_eq_true]

theorem Floor.bedRemnant_otherStep {n : Nat} {c : CloseOut} (hs : c.step ≠ .store) : fl.bedRemnant n c = none :=
  Option.eq_none_iff_forall_ne_some.2 fun _ hr => hs (Floor.bedRemnant_eq_some_iff.1 hr).2.1

theorem Floor.bedRemnant_otherBed {n r : Nat} {c : CloseOut} {st : Station} (hr : c.remnant = some r)
    (hst : fl.station? n = some st) (hb : st.bed ≠ some r) : fl.bedRemnant n c = none := by
  refine Option.eq_none_iff_forall_ne_some.2 fun r' hr' => hb ?_
  obtain ⟨hrem, -, st', hst', hbed⟩ := Floor.bedRemnant_eq_some_iff.1 hr'
  cases hr.symm.trans hrem
  cases hst.symm.trans hst'
  exact hbed

theorem Floor.inHands_moving {t : Option Nat} {k : Nat} {m : Move} (ht : t = some k) (hm : fl.move? k = some m)
    (hs : m.state ≠ .waiting) : fl.inHands t = some k := by
  obtain rfl : m.tag = k := Table.key_of_get Move.tag hm
  have hflight : m.inFlight = true := by simpa [Move.inFlight] using hs
  rw [Floor.inHands, ht, Option.bind_some, hm, Option.filter_some, if_pos hflight, Option.map_some]

theorem Floor.inHands_waiting {t : Option Nat} (h : ∀ k m, t = some k → fl.move? k = some m → m.state = .waiting) :
    fl.inHands t = none := by
  rw [Floor.inHands, Option.map_eq_none_iff, Option.filter_eq_none_iff]
  intro m hbind
  obtain ⟨k, hk, hm⟩ := Option.bind_eq_some_iff.1 hbind
  simpa [Move.inFlight] using h k m hk hm

theorem Work.dropWaiting_eq (x : Ctx) (t : Option Nat) (w : Work) :
    w.dropWaiting x t = (t.map fun k => w.deleteMove x k).getD w := by
  cases t <;> rfl

end

/-! ## The answers where there is no close-out -/

section
variable {h : Hall} {n : Nat} (hw : h.working)
include hw

theorem Hall.scrapRemnant_unknown (hn : h.cfg.station? n = none) : h.scrapRemnant n = h.refuse .unknownItem .none := by
  unfold Hall.scrapRemnant
  rw [Hall.whenIn_mem hw.mem, hn]

theorem Hall.skeletonManual_unknown (hn : h.cfg.station? n = none) :
    h.skeletonManual n = h.refuse .unknownItem .none := by
  unfold Hall.skeletonManual
  rw [Hall.whenIn_mem hw.mem, hn]

variable {b : StationCfg} (hn : h.cfg.station? n = some b)
include hn

theorem Hall.scrapRemnant_noCloseOut (hj : ∀ j, h.fl.leadJob n = some j → j.closeOut = none) :
    h.scrapRemnant n = h.refuse .notAccepted (stepDetail none) := by
  unfold Hall.scrapRemnant
  rw [Hall.whenIn_mem hw.mem, hn]
  cases hlead : h.fl.leadJob n with
  | none => rfl
  | some j => simp only [hj j hlead]

theorem Hall.skeletonManual_noCloseOut (hj : ∀ j, h.fl.leadJob n = some j → j.closeOut = none) :
    h.skeletonManual n = h.refuse .notAccepted (stepDetail none) := by
  unfold Hall.skeletonManual
  rw [Hall.whenIn_mem hw.mem, hn]
  cases hlead : h.fl.leadJob n with
  | none => rfl
  | some j => simp only [hj j hlead]

/-! ## The answers to a job in close-out -/

variable {j : Job} {q : CloseOut} (hj : h.fl.leadJob n = some j) (hq : j.closeOut = some q)
include hj hq

theorem Hall.scrapRemnant_noRemnant (hr : h.fl.bedRemnant n q = none) :
    h.scrapRemnant n = h.refuse .notAccepted (stepDetail (some q.step)) := by
  unfold Hall.scrapRemnant
  rw [Hall.whenIn_mem hw.mem, hn]
  simp only [hj, hq, hr]

theorem Hall.scrapRemnant_inHands {r t : Nat} (hr : h.fl.bedRemnant n q = some r) (ht : h.fl.inHands q.storeTag = some t) :
    h.scrapRemnant n = h.refuse .inMotion (.move t) := by
  unfold Hall.scrapRemnant
  rw [Hall.whenIn_mem hw.mem, hn]
  simp only [hj, hq, hr, ht]

theorem Hall.scrapRemnant_accepted {r : Nat} (hr : h.fl.bedRemnant n q = some r) (ht : h.fl.inHands q.storeTag = none) :
    h.scrapRemnant n = h.acceptWith (enc2 r) fun x w => w.scrapRemnant x j q r := by
  unfold Hall.scrapRemnant
  rw [Hall.whenIn_mem hw.mem, hn]
  simp only [hj, hq, hr, ht]

theorem Hall.skeletonManual_otherStep (hs : q.step ≠ .skeleton) :
    h.skeletonManual n = h.refuse .notAccepted (stepDetail (some q.step)) := by
  unfold Hall.skeletonManual
  rw [Hall.whenIn_mem hw.mem, hn]
  simp only [hj, hq, if_neg hs]

theorem Hall.skeletonManual_inHands {t : Nat} (hs : q.step = .skeleton) (ht : h.fl.inHands q.skelTag = some t) :
    h.skeletonManual n = h.refuse .inMotion (.move t) := by
  unfold Hall.skeletonManual
  rw [Hall.whenIn_mem hw.mem, hn]
  simp only [hj, hq, if_pos hs, ht]

theorem Hall.skeletonManual_accepted (hs : q.step = .skeleton) (ht : h.fl.inHands q.skelTag = none) :
    h.skeletonManual n = h.acceptWith [] fun x w => w.skeletonManual x j q := by
  unfold Hall.skeletonManual
  rw [Hall.whenIn_mem hw.mem, hn]
  simp only [hj, hq, if_pos hs, ht]

end

/-! ## The obligation -/

/-- Settles O45: the close-out step, the bed and the close-out's move decide which answer each request has. -/
theorem closeOutsAreEndedByTheHost : Obligations.CloseOutsAreEndedByTheHost := by
  unfold Obligations.CloseOutsAreEndedByTheHost
  intro s tag n hw inHands free gone
  refine ⟨fun hn => ⟨fun ht => State.answers_of ht rfl (Hall.scrapRemnant_unknown hw hn),
      fun ht => State.answers_of ht rfl (Hall.skeletonManual_unknown hw hn)⟩,
    fun b hn => ⟨fun j q hj hq => ⟨fun ht => ?scrap, fun ht => ?manual⟩, fun hj =>
      ⟨fun ht => State.answers_of ht rfl (Hall.scrapRemnant_noCloseOut hw hn hj),
        fun ht => State.answers_of ht rfl (Hall.skeletonManual_noCloseOut hw hn hj)⟩⟩⟩
  case scrap =>
    have noRemnant (hr : s.hall.fl.bedRemnant n q = none) :
        s.refuses (.scrapRemnant tag n) tag .notAccepted (.enumerated 15 q.step.code) :=
      State.answers_of ht rfl (Hall.scrapRemnant_noRemnant hw hn hj hq hr)
    refine ⟨fun hs => noRemnant (Floor.bedRemnant_otherStep hs), fun st r hs hr hst =>
      ⟨fun hb => noRemnant (Floor.bedRemnant_otherBed hr hst hb), fun k hb hk => ?inHands, fun hb hfree => ?accepted⟩⟩
    case inHands =>
      obtain ⟨htag, m, hm, hstate⟩ := hk
      exact State.answers_of ht rfl (Hall.scrapRemnant_inHands hw hn hj hq
        (Floor.bedRemnant_eq_some_iff.2 ⟨hr, hs, st, hst, hb⟩) (Floor.inHands_moving htag hm hstate))
    case accepted =>
      have hans := Hall.scrapRemnant_accepted hw hn hj hq
        (Floor.bedRemnant_eq_some_iff.2 ⟨hr, hs, st, hst, hb⟩) (Floor.inHands_waiting hfree)
      simp only [Work.scrapRemnant, Work.dropWaiting_eq] at hans
      exact State.answers_of ht rfl hans
  case manual =>
    refine ⟨fun hs => State.answers_of ht rfl (Hall.skeletonManual_otherStep hw hn hj hq hs),
      fun k hs hk => ?inHands, fun hs hfree => ?accepted⟩
    case inHands =>
      obtain ⟨htag, m, hm, hstate⟩ := hk
      exact State.answers_of ht rfl
        (Hall.skeletonManual_inHands hw hn hj hq hs (Floor.inHands_moving htag hm hstate))
    case accepted =>
      have hans := Hall.skeletonManual_accepted hw hn hj hq hs (Floor.inHands_waiting hfree)
      simp only [Work.skeletonManual, Work.dropWaiting_eq] at hans
      exact State.answers_of ht rfl hans

end Sys2Proof.Machine
end
section
/-! SUPPORT. The fields and the burn list of ADMIT_JOB (R80, checks 0 and 4): when the field tests pass, and when a list is not
refused BAD_LIST. -/
namespace Sys2Proof.Machine

/-! ## Fields within their ranges -/

theorem entryTests_pass {e : RawEntry} (he : RawEntry.inRanges e) : ∀ b ∈ entryTests e, b = true := by
  obtain ⟨hkind, harea, hpierces⟩ := he
  rcases hkind with ⟨hk, hshort, hlong, hsymbols, htemplate, hpositive⟩ | hk
  · simpa [entryTests, isYesNo, textOk, inRange, hk, hshort, hlong, htemplate, hpositive, harea, hpierces] using hsymbols
  · simp [entryTests, isYesNo, inRange, hk, harea, hpierces]

theorem shapeTests_pass {len wid corner nl nw : Nat} (hl : 200 ≤ len ∧ len ≤ 24000) (hw : 200 ≤ wid ∧ wid ≤ 4800)
    (hc : corner ≤ 4) (hn : corner ≠ 0 → 100 ≤ nl ∧ nl + 100 ≤ len ∧ 100 ≤ nw ∧ nw + 100 ≤ wid) :
    ∀ b ∈ shapeTests len wid corner nl nw, b = true := by
  by_cases h0 : corner = 0
  · simp [shapeTests, inRange, hl, hw, h0]
  · simp [shapeTests, inRange, hl, hw, hc, hn h0]

theorem Admission.tests_pass {a : Admission} (hjob : 1 ≤ a.job ∧ a.job ≤ 65535)
    (hstation : 1 ≤ a.station ∧ a.station ≤ 4) (hpolicy : a.policy ≤ 1) (hexpedite : a.expedite ≤ 1)
    (hdeclared : a.declared ≤ 1)
    (hshape : a.declared ≠ 0 → ∀ b ∈ shapeTests a.len a.wid a.corner a.nl a.nw, b = true)
    (hentries : ∀ e ∈ a.entries, RawEntry.inRanges e) : ∀ b ∈ a.tests, b = true := by
  intro b hb
  rw [Admission.tests, List.mem_append, List.mem_append] at hb
  rcases hb with (hb | hb) | hb
  · have hflags : a.policy < 2 ∧ a.expedite < 2 ∧ a.declared < 2 := by omega
    simpa [inRange, isYesNo, hjob, hstation, hflags] using hb
  · by_cases h0 : a.declared = 0
    · simpa [h0] using hb
    · exact hshape h0 b (by simpa [h0] using hb)
  · obtain ⟨e, he, hb⟩ := List.mem_flatMap.1 hb
    exact entryTests_pass (hentries e he) b hb

/-! ## The SEPARATION entries -/

/-- The indices of the SEPARATION entries of a list whose first entry has index `k + 1`. -/
def separationsFrom (k : Nat) (es : List RawEntry) : List Nat :=
  ((es.zipIdx k).filter fun e => e.1.kind == 1).map fun e => e.2 + 1

theorem Admission.separations_eq (a : Admission) : a.separations = separationsFrom 0 a.entries := rfl

theorem separationsFrom_cons (k : Nat) (e : RawEntry) (es : List RawEntry) :
    separationsFrom k (e :: es) = if e.kind = 1 then (k + 1) :: separationsFrom (k + 1) es else separationsFrom (k + 1) es := by
  by_cases he : e.kind = 1 <;> simp [separationsFrom, he]

theorem separationsFrom_concat (k : Nat) (ps : List RawEntry) (sep : RawEntry) :
    separationsFrom k (ps ++ [sep]) = separationsFrom k ps ++ if sep.kind = 1 then [k + ps.length + 1] else [] := by
  by_cases hs : sep.kind = 1 <;> simp [separationsFrom, List.zipIdx_append, hs]

theorem separationsFrom_eq_nil_iff : ∀ {es : List RawEntry} {k : Nat},
    separationsFrom k es = [] ↔ ∀ e ∈ es, e.kind ≠ 1
  | [], _ => by simp [separationsFrom]
  | e :: es, k => by
    rw [separationsFrom_cons, List.forall_mem_cons, ← separationsFrom_eq_nil_iff (es := es) (k := k + 1)]
    by_cases he : e.kind = 1 <;> simp [he]

theorem separationsFrom_le : ∀ {es : List RawEntry} {k i : Nat}, i ∈ separationsFrom k es → i ≤ k + es.length
  | [], _, _, h => by simp [separationsFrom] at h
  | e :: es, k, i, h => by
    have hrest (h : i ∈ separationsFrom (k + 1) es) : i ≤ k + (e :: es).length := by
      have := separationsFrom_le h
      rw [List.length_cons]; omega
    rw [separationsFrom_cons] at h
    split at h
    · rcases List.mem_cons.1 h with rfl | h
      · rw [List.length_cons]; omega
      · exact hrest h
    · exact hrest h

/-- The last entry is the only SEPARATION. -/
theorem separationsFrom_eq_last_iff {es : List RawEntry} :
    separationsFrom 0 es = [es.length] ↔ ∃ ps sep, es = ps ++ [sep] ∧ sep.kind = 1 ∧ ∀ e ∈ ps, e.kind ≠ 1 := by
  constructor
  · intro h
    rcases List.eq_nil_or_concat es with rfl | ⟨ps, sep, rfl⟩
    · simp [separationsFrom] at h
    rw [List.concat_eq_append] at h ⊢
    rw [separationsFrom_concat] at h
    by_cases hs : sep.kind = 1
    · exact ⟨ps, sep, rfl, hs, separationsFrom_eq_nil_iff.1 (by simpa [hs] using h)⟩
    · have hlast : ps.length + 1 ∈ separationsFrom 0 ps := by simp [show separationsFrom 0 ps = _ by simpa [hs] using h]
      have := separationsFrom_le hlast
      omega
  · rintro ⟨ps, sep, rfl, hs, hps⟩
    rw [separationsFrom_concat, separationsFrom_eq_nil_iff.2 hps]
    simp [hs]

/-! ## Part numbers and templates -/

theorem overLong_eq_none_iff {limit : Nat} : ∀ {es : List RawEntry} {i sum : Nat}, sum ≤ limit →
    (overLong limit i sum es = none ↔ sum + ((es.filter fun e => e.kind != 1).map fun e => e.partNo.length).sum ≤ limit)
  | [], _, _, h => by simpa [overLong] using h
  | e :: es, i, sum, h => by
    by_cases he : e.kind = 1
    · simpa [overLong, he, Nat.not_lt.2 h] using overLong_eq_none_iff (es := es) (i := i + 1) h
    · by_cases hl : limit < sum + e.partNo.length
      · simp [overLong, he, hl]; omega
      · simpa [overLong, he, hl, Nat.add_assoc] using overLong_eq_none_iff (es := es) (i := i + 1) (Nat.not_lt.1 hl)

theorem mem_fieldCounters {fs : List Field} {k : Nat} : k ∈ fieldCounters fs ↔ Field.serial k ∈ fs := by
  rw [fieldCounters, List.mem_filterMap]
  refine ⟨fun ⟨f, hf, hk⟩ => ?_, fun hk => ⟨_, hk, rfl⟩⟩
  cases f <;> simp [Field.counter?] at hk
  exact hk ▸ hf

theorem usableTemplate_iff {ts : List Template} {counters : List Counter} {id : Nat} :
    usableTemplate ts counters id = true ↔ id = 0 ∨ ∃ t, Table.get Template.id id ts = some t ∧
      ∀ k, Field.serial k ∈ t.fields → ∃ q, Table.get Counter.id k counters = some q ∧ q.width ≠ none := by
  simp [usableTemplate, templateOf, Option.any_eq_true, mem_fieldCounters, Option.isSome_iff_ne_none]

/-! ## The burn list (R80 check 4) -/

/-- What check 4 asks of the SEPARATION entries: none without a remnant declared, and with one the last entry alone. -/
def Admission.separated (a : Admission) : Prop :=
  (a.declared = 0 ∧ ∀ e ∈ a.entries, e.kind = 0)
    ∨ (a.declared = 1 ∧ ∃ ps sep, a.entries = ps ++ [sep] ∧ sep.kind = 1 ∧ ∀ e ∈ ps, e.kind = 0)

/-- What check 4 asks of a burn list (R80, R16, R67). -/
def Admission.listOk (a : Admission) (h : Hall) : Prop :=
  let parts := a.entries.filter fun e => e.kind == 0
  1 ≤ a.entries.length ∧ a.entries.length ≤ 48 ∧ a.separated
    ∧ (∀ e ∈ parts, e.template = 0 ∨ ∃ t, Table.get Template.id e.template h.templates = some t ∧
        ∀ k, Field.serial k ∈ t.fields → ∃ q, h.fl.counter? k = some q ∧ q.width ≠ none)
    ∧ (parts.map fun e => e.partNo.length).sum ≤ 384

section
variable {a : Admission} {ts : List Template} {counters : List Counter}

theorem Admission.badList_count (hcount : a.count = 0 ∨ 48 < a.count) : a.badList ts counters = some 0 := if_pos hcount

/-- With a count that is allowed, a list passes with its SEPARATION entries, its templates and its part numbers. -/
theorem Admission.badList_eq_none (hcount : ¬ (a.count = 0 ∨ 48 < a.count)) :
    a.badList ts counters = none ↔
      (a.declared = 0 ∧ a.separations = [] ∨ a.declared ≠ 0 ∧ a.separations = [a.entries.length])
      ∧ (∀ e ∈ a.entries, e.kind ≠ 1 → usableTemplate ts counters e.template = true)
      ∧ overLong 384 1 0 a.entries = none := by
  have htemplates : (a.entries.findIdx? fun e => e.kind != 1 && !usableTemplate ts counters e.template) = none ↔
      ∀ e ∈ a.entries, e.kind ≠ 1 → usableTemplate ts counters e.template = true := by
    simp [List.findIdx?_eq_none_iff]
  rw [← htemplates]
  unfold Admission.badList
  rw [if_neg hcount]
  match a.separations with
  | [] => by_cases h0 : a.declared = 0 <;> simp [h0]
  | [i] => by_cases h0 : a.declared = 0 <;> by_cases hi : i = a.entries.length <;> simp [h0, hi]
  | _ :: _ :: _ => simp

variable (hkinds : ∀ e ∈ a.entries, e.kind = 0 ∨ e.kind = 1)
include hkinds

theorem Admission.separated_iff (hd : a.declared ≤ 1) :
    a.separated ↔ (a.declared = 0 ∧ a.separations = [] ∨ a.declared ≠ 0 ∧ a.separations = [a.entries.length]) := by
  have hpart {e : RawEntry} (he : e ∈ a.entries) : e.kind ≠ 1 ↔ e.kind = 0 := by
    have := hkinds e he
    omega
  have hdeclared : a.declared ≠ 0 ↔ a.declared = 1 := by omega
  rw [Admission.separations_eq, separationsFrom_eq_nil_iff, separationsFrom_eq_last_iff, hdeclared]
  refine or_congr (and_congr_right' (forall₂_congr fun e he => (hpart he).symm)) (and_congr_right' ?_)
  refine exists₂_congr fun ps sep => and_congr_right fun heq => and_congr_right' (forall₂_congr fun e he => ?_)
  exact (hpart (heq ▸ List.mem_append_left _ he)).symm

/-- A list is not refused BAD_LIST exactly when it is what check 4 asks. -/
theorem Admission.badList_eq_none_iff {h : Hall} (hcount : a.count = a.entries.length) (hd : a.declared ≤ 1) :
    a.badList h.templates h.fl.counters = none ↔ a.listOk h := by
  have hparts : (a.entries.filter fun e => e.kind != 1) = a.entries.filter fun e => e.kind == 0 :=
    List.filter_congr fun e he => by rcases hkinds e he with hk | hk <;> simp [hk]
  by_cases hbad : a.count = 0 ∨ 48 < a.count
  · rw [Admission.badList_count hbad]
    unfold Admission.listOk
    simp only [reduceCtorEq, false_iff]
    omega
  rw [Admission.badList_eq_none hbad, ← Admission.separated_iff hkinds hd, overLong_eq_none_iff (Nat.zero_le _), hparts,
    Nat.zero_add]
  have hmem {e : RawEntry} : (e ∈ a.entries.filter fun e => e.kind == 0) ↔ e ∈ a.entries ∧ e.kind ≠ 1 := by
    rw [← hparts]
    simp
  constructor
  · rintro ⟨hsep, huse, hlen⟩
    refine ⟨by omega, by omega, hsep, fun e he => ?_, hlen⟩
    obtain ⟨he, hk⟩ := hmem.1 he
    exact usableTemplate_iff.1 (huse e he hk)
  · rintro ⟨-, -, hsep, huse, hlen⟩
    exact ⟨hsep, fun e he hk => usableTemplate_iff.2 (huse e (hmem.2 ⟨he, hk⟩)), hlen⟩

end

end Sys2Proof.Machine
end
section
/-! SUPPORT. ADMIT_JOB (R80, R81): its checks of the plate and of the declared remnant, what it answers, and the job it
enters. -/
namespace Sys2Proof.Machine

/-! ## The place of the plate, the bed and the cranes (R80 checks 7, 8 and 11) -/

theorem Floor.wrongPlace_iff {fl : Floor} {station : Nat} {l : Location} :
    fl.wrongPlace station l = true ↔ (∃ k, l = .crane k)
      ∨ ∃ n, l = .station n ∧ (n ≠ station ∨ ∃ st, fl.station? n = some st ∧ st.state = .clearing) := by
  cases l <;> simp [Floor.wrongPlace, Option.any_eq_true]

theorem Hall.unliftable_iff {h : Hall} {station : Nat} {p : Plate} :
    h.unliftable station p = true ↔ ¬ (p.location = .station station
      ∨ ∃ k ∈ h.cfg.cranes, p.mass ≤ min (k.swl - k.tare) (kmag k p.thickness (h.cfg.factor p.grade))) := by
  have hlifts : (h.cfg.cranes.any fun k => h.ctx.lifts k p.mass p.thickness p.grade) = true ↔
      ∃ k ∈ h.cfg.cranes, p.mass ≤ min (k.swl - k.tare) (kmag k p.thickness (h.cfg.factor p.grade)) :=
    List.any_eq_true.trans (exists_congr fun k => and_congr_right fun _ => decide_eq_true_iff)
  rw [Hall.unliftable, Bool.and_eq_true, bne_iff_ne, Bool.not_eq_true', ← Bool.not_eq_true, hlifts, not_or]

section
variable {c : StationCfg} {p : Plate}

theorem StationCfg.exceeded_length (hl : c.bedL < p.len) : c.exceeded p = some c.bedL := if_pos hl

theorem StationCfg.exceeded_width (hl : p.len ≤ c.bedL) (hw : c.bedW < p.wid) : c.exceeded p = some c.bedW := by
  rw [StationCfg.exceeded, if_neg (Nat.not_lt.2 hl), if_pos hw]

theorem StationCfg.exceeded_thickness (hl : p.len ≤ c.bedL) (hw : p.wid ≤ c.bedW) (ht : c.maxT < p.thickness) :
    c.exceeded p = some c.maxT := by
  rw [StationCfg.exceeded, if_neg (Nat.not_lt.2 hl), if_neg (Nat.not_lt.2 hw), if_pos ht]

theorem StationCfg.exceeded_none (hl : p.len ≤ c.bedL) (hw : p.wid ≤ c.bedW) (ht : p.thickness ≤ c.maxT) :
    c.exceeded p = none := by
  rw [StationCfg.exceeded, if_neg (Nat.not_lt.2 hl), if_neg (Nat.not_lt.2 hw), if_neg (Nat.not_lt.2 ht)]

end

/-! ## The declared remnant (R16, R80 check 10) -/

theorem areaOf_notchOf {corner : Nat} (hc : corner ≤ 4) (len wid nl nw : Nat) :
    areaOf len wid (notchOf corner nl nw) = if corner = 0 then len * wid else len * wid - nl * nw := by
  have hcases : corner = 0 ∨ corner = 1 ∨ corner = 2 ∨ corner = 3 ∨ corner = 4 := by omega
  rcases hcases with rfl | rfl | rfl | rfl | rfl <;> rfl

theorem Admission.remnantArea_eq {a : Admission} (hc : a.declared ≠ 0 → a.corner ≤ 4) :
    a.remnantArea = if a.declared = 0 then 0 else
      if a.corner = 0 then a.len * a.wid else a.len * a.wid - a.nl * a.nw := by
  unfold Admission.remnantArea
  split
  · rfl
  next h0 => exact areaOf_notchOf (hc h0) _ _ _ _

section
variable {a : Admission} {lim : Limits} {p : Plate}

theorem Admission.remnantFault_none
    (h : a.declared ≠ 0 → a.len ≤ p.len ∧ a.wid ≤ p.wid ∧ lim.minSide ≤ min a.len a.wid
      ∧ lim.minArea * 10000 ≤ a.remnantArea) : a.remnantFault (some lim) p = none := by
  unfold Admission.remnantFault
  by_cases h0 : a.declared = 0
  · exact if_pos h0
  obtain ⟨hlen, hwid, hside, harea⟩ := h h0
  rw [if_neg h0, if_neg (Nat.not_lt.2 hlen), if_neg (Nat.not_lt.2 hwid)]
  exact (if_neg (Nat.not_lt.2 hside)).trans (if_neg (Nat.not_lt.2 harea))

variable (hd : a.declared = 1)
include hd

theorem Admission.remnantFault_length (hlen : p.len < a.len) :
    a.remnantFault (some lim) p = some (.remnantOutsidePlate, .number a.len) := by
  simp [Admission.remnantFault, hd, hlen]

theorem Admission.remnantFault_width (hlen : a.len ≤ p.len) (hwid : p.wid < a.wid) :
    a.remnantFault (some lim) p = some (.remnantOutsidePlate, .number a.wid) := by
  simp [Admission.remnantFault, hd, Nat.not_lt.2 hlen, hwid]

variable (hlen : a.len ≤ p.len) (hwid : a.wid ≤ p.wid)
include hlen hwid

theorem Admission.remnantFault_side (hside : min a.len a.wid < lim.minSide) :
    a.remnantFault (some lim) p = some (.remnantBelowMinimum, .number (min a.len a.wid)) := by
  unfold Admission.remnantFault
  rw [if_neg (by omega), if_neg (Nat.not_lt.2 hlen), if_neg (Nat.not_lt.2 hwid)]
  exact if_pos hside

theorem Admission.remnantFault_area (hside : lim.minSide ≤ min a.len a.wid)
    (harea : a.remnantArea < lim.minArea * 10000) :
    a.remnantFault (some lim) p = some (.remnantBelowMinimum, .number a.remnantArea) := by
  unfold Admission.remnantFault
  rw [if_neg (by omega), if_neg (Nat.not_lt.2 hlen), if_neg (Nat.not_lt.2 hwid)]
  exact (if_neg (Nat.not_lt.2 hside)).trans (if_pos harea)

end

/-! ## The checks of the plate in their order (R80 checks 6 to 11) -/

section
variable {h : Hall} {a : Admission} {c : StationCfg} {p : Plate}

theorem Hall.plateFault_held (hp : p.hold ≠ .free) : h.plateFault a c p = some (.notFree, p.hold.detail) := if_pos hp

variable (hp : p.hold = .free)
include hp

theorem Hall.plateFault_misplaced (hl : h.fl.wrongPlace a.station p.location = true) :
    h.plateFault a c p = some (.wrongLocation, p.location.detail) := by
  rw [Hall.plateFault, if_neg (not_not_intro hp), if_pos hl]

variable (hl : ¬ h.fl.wrongPlace a.station p.location = true)
include hl

theorem Hall.plateFault_tooLarge {limit : Nat} (hbed : c.exceeded p = some limit) :
    h.plateFault a c p = some (.plateTooLarge, .number limit) := by
  rw [Hall.plateFault, if_neg (not_not_intro hp), if_neg hl, hbed]

variable (hbed : c.exceeded p = none)
include hbed

theorem Hall.plateFault_area (ha : p.area < a.areaSum) :
    h.plateFault a c p = some (.areaExceedsPlate, sumDetail a.areaSum) := by
  rw [Hall.plateFault, if_neg (not_not_intro hp), if_neg hl, hbed]
  exact if_pos ha

/-- A plate that is free, in its place, on a bed it fits and large enough is judged by the remnant and the cranes. -/
theorem Hall.plateFault_fits (ha : a.areaSum ≤ p.area) :
    h.plateFault a c p = (a.remnantFault h.cfg.limits p).or
      (if h.unliftable a.station p then some (.notLiftable, .number p.mass) else none) := by
  rw [Hall.plateFault, if_neg (not_not_intro hp), if_neg hl, hbed]
  exact if_neg (Nat.not_lt.2 ha)

end

/-! ## The answers -/

section
variable {h : Hall} {a : Admission} (hw : h.working) (ht : ∀ b ∈ a.tests, b = true)
include hw ht

theorem Hall.admitJob_duplicate (hj : (h.fl.job? a.job).isSome) : h.admitJob a = h.refuse .duplicate (.job a.job) := by
  unfold Hall.admitJob
  rw [hw.checked ht, if_pos hj]

variable (hj : h.fl.job? a.job = none)
include hj

theorem Hall.admitJob_unknownStation (hc : h.cfg.station? a.station = none) :
    h.admitJob a = h.refuse .unknownItem (.station a.station) := by
  simp [Hall.admitJob, hw.checked ht, hj, hc]

variable {c : StationCfg} (hc : h.cfg.station? a.station = some c)
include hc

theorem Hall.admitJob_full (hq : 4 ≤ (h.fl.queue a.station).length) :
    h.admitJob a = h.refuse .full (.station a.station) := by
  simp [Hall.admitJob, hw.checked ht, hj, hc, hq]

variable (hq : (h.fl.queue a.station).length < 4)
include hq

theorem Hall.admitJob_badList {i : Nat} (hl : a.badList h.templates h.fl.counters = some i) :
    h.admitJob a = h.refuse .badList (.entry i) := by
  simp [Hall.admitJob, hw.checked ht, hj, hc, Nat.not_le.2 hq, hl]

variable (hl : a.badList h.templates h.fl.counters = none)
include hl

theorem Hall.admitJob_unknownPlate (hp : h.fl.plate? a.plate = none) :
    h.admitJob a = h.refuse .unknownItem (.plate a.plate) := by
  simp [Hall.admitJob, hw.checked ht, hj, hc, Nat.not_le.2 hq, hl, hp]

variable {p : Plate} (hp : h.fl.plate? a.plate = some p)
include hp

theorem Hall.admitJob_plateFault {code : RefusalCode} {d : Detail} (hf : h.plateFault a c p = some (code, d)) :
    h.admitJob a = h.refuse code d := by
  simp [Hall.admitJob, hw.checked ht, hj, hc, Nat.not_le.2 hq, hl, hp, hf]

theorem Hall.admitJob_accepted (hf : h.plateFault a c p = none) :
    h.admitJob a = h.acceptWith
      (enc2 (a.record h p).id ++ enc1 ((h.fl.queue a.station).length + 1) ++ enc4 p.area ++ enc4 p.mass
        ++ encOpt4 ((a.record h p).remnant.map RemnantDecl.area) ++ encOpt4 ((a.record h p).remnant.map RemnantDecl.mass))
      fun x w => w.enterJob x (a.record h p) := by
  simp [Hall.admitJob, hw.checked ht, hj, hc, Nat.not_le.2 hq, hl, hp, hf]

end

/-! ## The job entered (R81) -/

theorem Timer.start_working {h : Hall} (hw : h.working) (code : Nat) :
    Timer.start h.sup.state code = ⟨code, durationMs code, .running⟩ := by
  have hs : h.sup.state ≠ .frozen := fun hs => absurd (hs ▸ hw.mem) (by decide)
  rw [Timer.start, if_neg hs]

section
variable {w : Work} {x : Ctx} {j : Job}

@[simp] theorem Work.enterJob_fl : (w.enterJob x j).fl = { w.fl with
    jobs := w.fl.jobs ++ [j]
    plates := Table.amend Plate.id j.plate (fun q => { q with hold := .reserved j.id }) w.fl.plates } := by
  rw [Work.enterJob, Work.wantExamine_fl, Work.noteJob_fl]
  rfl

@[simp] theorem Work.enterJob_examine : (w.enterJob x j).examine = true := rfl

/-- The notice shows the job entered, since no job of its id was present. -/
theorem Work.enterJob_out (hj : w.fl.job? j.id = none) :
    (w.enterJob x j).out = w.out ++ [⟨x.clock, .job .admitted j.id j.station (some j.state) none none none⟩] := by
  have hfound : Table.get Job.id j.id (w.fl.jobs ++ [j]) = some j := by
    unfold Table.get
    rw [List.find?_append, show w.fl.jobs.find? (fun k => k.id == j.id) = none from hj]
    simp
  unfold Work.enterJob Work.noteJob Floor.job?
  simp only [Work.setHold_jobs, hfound]
  rfl

end

/-! ## The obligation -/

/-- Settles O43: the checks of ADMIT_JOB in their order, each with the answer of its case, and the job entered once all pass. -/
theorem admissionsAreCheckedAndQueued : Obligations.AdmissionsAreCheckedAndQueued := by
  unfold Obligations.AdmissionsAreCheckedAndQueued
  intro s tag job station plate nest policy expedite code declared len wid corner nl nw entries lim c h parts remnant sum
    usable listOk hturn hw hlim hjob hjob' hstation hstation' hpolicy hexpedite hdeclared hshape hentries
  let a : Admission :=
    ⟨job, station, plate, nest, policy, expedite, code, entries.length, declared, len, wid, corner, nl, nw, entries⟩
  have hone (h0 : declared ≠ 0) : declared = 1 := by omega
  have hpass : ∀ b ∈ a.tests, b = true := by
    refine Admission.tests_pass ⟨hjob, hjob'⟩ ⟨hstation, hstation'⟩ hpolicy hexpedite hdeclared (fun h0 => ?_) hentries
    obtain ⟨hlen, hlen', hwid, hwid', hcorner, hnotch⟩ := hshape (hone h0)
    exact shapeTests_pass ⟨hlen, hlen'⟩ ⟨hwid, hwid'⟩ hcorner hnotch
  have hremnant : a.remnantArea = remnant := Admission.remnantArea_eq fun h0 => by
    obtain ⟨-, -, -, -, hcorner, -⟩ := hshape (hone h0)
    exact hcorner
  have hsum : a.areaSum = sum := congrArg ((entries.map RawEntry.area).sum + ·) hremnant
  have hlist : a.badList h.templates h.fl.counters = none ↔ listOk :=
    Admission.badList_eq_none_iff (fun e he => (hentries e he).1.imp And.left id) rfl hdeclared
  have answered {r : Reply} {hall : Hall} {out : List Notice} (hans : h.admitJob a = ⟨r, hall, out⟩) :
      s.answers c tag r hall out := State.answers_of hturn rfl hans
  refine ⟨fun hj => answered (Hall.admitJob_duplicate hw hpass hj), fun hj =>
    ⟨fun hc => answered (Hall.admitJob_unknownStation hw hpass hj hc), fun b hc =>
      ⟨fun hq => answered (Hall.admitJob_full hw hpass hj hc hq), fun hq =>
        ⟨fun hbad => ?listed, fun hcount => ?counted, fun hok =>
          ⟨fun hp => answered (Hall.admitJob_unknownPlate hw hpass hj hc hq (hlist.2 hok) hp),
            fun p hp => ?plate⟩⟩⟩⟩⟩
  case listed =>
    obtain ⟨i, hi⟩ := Option.ne_none_iff_exists'.1 (mt hlist.1 hbad)
    exact ⟨i, answered (Hall.admitJob_badList hw hpass hj hc hq hi)⟩
  case counted => exact answered (Hall.admitJob_badList hw hpass hj hc hq (Admission.badList_count hcount))
  case plate =>
    have faulted {code : RefusalCode} {d : Detail} (hf : h.plateFault a b p = some (code, d)) : s.refuses c tag code d :=
      answered (Hall.admitJob_plateFault hw hpass hj hc hq (hlist.2 hok) hp hf)
    refine ⟨fun hheld => faulted (Hall.plateFault_held hheld), fun hfree =>
      ⟨fun hl => faulted (Hall.plateFault_misplaced hfree (Floor.wrongPlace_iff.2 hl)), fun hl => ?placed⟩⟩
    case placed =>
      replace hl : ¬ h.fl.wrongPlace a.station p.location = true := mt Floor.wrongPlace_iff.1 hl
      refine ⟨fun hL => faulted (Hall.plateFault_tooLarge hfree hl (StationCfg.exceeded_length hL)),
        fun hL hW => faulted (Hall.plateFault_tooLarge hfree hl (StationCfg.exceeded_width hL hW)),
        fun hL hW hT => faulted (Hall.plateFault_tooLarge hfree hl (StationCfg.exceeded_thickness hL hW hT)),
        fun hL hW hT => ?fits⟩
      have hbed : b.exceeded p = none := StationCfg.exceeded_none hL hW hT
      rw [← hsum, ← hremnant]
      refine ⟨fun harea => faulted (Hall.plateFault_area hfree hl hbed harea), fun harea => ?large⟩
      have hfits := Hall.plateFault_fits hfree hl hbed harea
      rw [hlim] at hfits
      have remnantFaulted {f : RefusalCode × Detail} (hf : a.remnantFault (some lim) p = some f) :
          h.plateFault a b p = some f := by rw [hfits, hf, Option.some_or]
      refine ⟨fun hd hlen => faulted (remnantFaulted (Admission.remnantFault_length hd hlen)),
        fun hd hlen hwid => faulted (remnantFaulted (Admission.remnantFault_width hd hlen hwid)),
        fun hd hlen hwid hside => faulted (remnantFaulted (Admission.remnantFault_side hd hlen hwid hside)),
        fun hd hlen hwid hside harea => faulted (remnantFaulted (Admission.remnantFault_area hd hlen hwid hside harea)),
        fun hr => ?kept⟩
      rw [Admission.remnantFault_none fun h0 => hr (hone h0), Option.none_or] at hfits
      refine ⟨fun hlift => faulted (hfits.trans (if_pos (Hall.unliftable_iff.2 hlift))), fun hlift => ?lifted⟩
      replace hlift : ¬ h.unliftable a.station p = true := fun hu => Hall.unliftable_iff.1 hu hlift
      intro d j
      have hid : p.id = plate := Table.key_of_get Plate.id hp
      have hrecord : a.record h p = j := by
        rw [Admission.record, Timer.start_working hw, hid]
        rfl
      have hans := Hall.admitJob_accepted hw hpass hj hc hq (hlist.2 hok) hp (hfits.trans (if_neg hlift))
      rw [hrecord] at hans
      refine ⟨answered hans, fun x w hfl => ?_⟩
      rw [← hfl] at hj ⊢
      exact ⟨Work.enterJob_fl, Work.enterJob_out hj, Work.enterJob_examine⟩

end Sys2Proof.Machine
end
section
/-! SUPPORT. A hall whose node table has two records at one address, which R139 rules out and `Hall.recordInv` does not: a visit
there writes the record that its frame is built from over both, and with the second record goes its bad health (R141, R163). -/
namespace Sys2Proof.Machine

/-- The hall in RUN at the end of a round gap, one poll entry, and two records at its address: the first UP, the second LOST. -/
def doubledNode : State :=
  { State.reset with
    hall :=
      { Hall.initial with
        cfg := { Tables.empty with polls := [⟨1, 1, .station, 1, 0⟩] }
        sup := { Supervisor.initial with state := .run, alert := true }
        fl := { Floor.empty with line := { Line.silent with
          gap := true
          nodes := [⟨1, .station, .up, 0, 0, none, false, [], 0, []⟩, ⟨1, .station, .lost, 0, 0, none, false, [], 0, []⟩] } } } }

theorem doubledNode_recordInv : doubledNode.hall.recordInv := by
  unfold Hall.recordInv; decide

/-- ALERT stands before the round gap expires and is released by the visit that begins then. -/
theorem doubledNode_alert :
    doubledNode.hall.sup.alert = true ∧ ∀ t, exec .roundGapExpired doubledNode = .next t → t.hall.sup.alert = false := by
  refine ⟨rfl, fun t ht => ?_⟩
  have hgo : exec .roundGapExpired doubledNode =
      .next (doubledNode.event fun h => h.onFloor [] fun x w => w.beginRound x ((w.fl.line.round + 1) % 64)) := rfl
  cases hgo.symm.trans ht
  decide

/-- Refutes O49: its premise `recordInv` does not say that the node records have one entry for each address. In
`doubledNode` the visit that follows ROUND_GAP_EXPIRED writes the record of an UP node over a LOST one, and ALERT, so the hall
record, does not stand as `kept` has it. -/
theorem not_lineEventsCarryTheVisitsOn : ¬ Obligations.LineEventsCarryTheVisitsOn := by
  unfold Obligations.LineEventsCarryTheVisitsOn
  intro h
  obtain ⟨hgap, -⟩ := h doubledNode doubledNode_recordInv
  obtain ⟨t, ht, ⟨-, -, -, -, hsup, -⟩, -⟩ := hgap rfl
  obtain ⟨hbefore, hafter⟩ := doubledNode_alert
  have halert : t.hall.sup.alert = doubledNode.hall.sup.alert := congrArg Supervisor.alert hsup
  rw [hafter t ht, hbefore] at halert
  exact Bool.false_ne_true halert

end Sys2Proof.Machine
end
section
/-! SUPPORT. What leaves the hall line alone: notices, plates, bays, racks, jobs, moves and the state of a station (R4-R6, R23-R31,
R74-R75, R88-R99, R115, R124-R129). An order is the only thing that reaches the line (Node.hand). -/
namespace Sys2Proof.Machine

section
variable {x : Ctx} {w v : Work}

@[simp] theorem Work.ite_line {c : Prop} [Decidable c] :
    (if c then w else v).fl.line = if c then w.fl.line else v.fl.line := by split <;> rfl

theorem Work.foldl_line {β : Type} {f : Work → β → Work} (hf : ∀ w b, (f w b).fl.line = w.fl.line) :
    ∀ (l : List β) (w : Work), (l.foldl f w).fl.line = w.fl.line
  | [], _ => rfl
  | b :: l, w => (Work.foldl_line hf l (f w b)).trans (hf w b)

/-! ## Plates, bays and slots -/

@[simp] theorem Work.onCounter_line (c : Nat) (f : Counter → Counter) : (w.onCounter c f).fl.line = w.fl.line := rfl
@[simp] theorem Work.addPlate_line (p : Plate) : (w.addPlate p).fl.line = w.fl.line := rfl
@[simp] theorem Work.freePlate_line (id : Nat) : (w.freePlate id).fl.line = w.fl.line := rfl
@[simp] theorem Work.setLocation_line (id : Nat) (l : Location) : (w.setLocation id l).fl.line = w.fl.line := rfl
@[simp] theorem Work.pushBay_line (b id : Nat) : (w.pushBay b id).fl.line = w.fl.line := rfl

@[simp] theorem Work.onRack_line (r : Nat) (f : Rack → Rack) : (w.onRack r f).fl.line = w.fl.line := by
  unfold Work.onRack; split <;> rfl
@[simp] theorem Work.onSlot_line (r n : Nat) (f : Slot → Slot) : (w.onSlot r n f).fl.line = w.fl.line :=
  Work.onRack_line _ _
@[simp] theorem Work.rackLost_line (r : Nat) : (w.rackLost r).fl.line = w.fl.line := Work.onRack_line _ _
@[simp] theorem Work.rackUp_line (r : Nat) : (w.rackUp r).fl.line = w.fl.line := Work.onRack_line _ _

@[simp] theorem Work.leavePlace_line (id : Nat) (l : Location) : (w.leavePlace id l).fl.line = w.fl.line := by
  unfold Work.leavePlace; split <;> simp

@[simp] theorem Work.deletePlate_line (id : Nat) : (w.deletePlate id).fl.line = w.fl.line := by
  unfold Work.deletePlate; split <;> simp

/-! ## Moves and jobs -/

@[simp] theorem Work.removeMove_line (m : Move) : (w.removeMove m).fl.line = w.fl.line := by
  unfold Work.removeMove; simp

@[simp] theorem Work.deleteMove_line (t : Nat) : (w.deleteMove x t).fl.line = w.fl.line := by
  unfold Work.deleteMove; split <;> simp

@[simp] theorem Work.failMove_line (m : Move) (r : FailReason) : (w.failMove x m r).fl.line = w.fl.line := by
  unfold Work.failMove; simp

theorem Work.createMove_line (origin : Origin) (kind : MoveKind) (load : Load) (pickup : Option Place) (drop : Place)
    (expedite : Bool) (waits : Option Nat) :
    (w.createMove x origin kind load pickup drop expedite waits).2.fl.line = w.fl.line := by
  unfold Work.createMove; split <;> rfl

/-- The floor after a move created, its tag found or not. -/
theorem Work.created_line {origin : Origin} {kind : MoveKind} {load : Load} {pickup : Option Place} {drop : Place}
    {expedite : Bool} {waits t : Option Nat}
    (h : w.createMove x origin kind load pickup drop expedite waits = (t, v)) : v.fl.line = w.fl.line :=
  (congrArg (·.2.fl.line) h).symm.trans (Work.createMove_line _ _ _ _ _ _ _)

@[simp] theorem Work.closeJob_line (id : Nat) (o : JobOutcome) (f : Option (Nat × Nat)) :
    (w.closeJob x id o f).fl.line = w.fl.line := by
  unfold Work.closeJob; split <;> rfl

@[simp] theorem Work.loseMaterial_line (id : Nat) : (w.loseMaterial x id).fl.line = w.fl.line := by
  unfold Work.loseMaterial; dsimp only; split <;> simp

@[simp] theorem Work.rejectHeld_line (h : Hold) : (w.rejectHeld x h).fl.line = w.fl.line := by
  unfold Work.rejectHeld
  split
  · simp
  · dsimp only; split <;> simp
  · rfl

@[simp] theorem Work.commit_line (j : Job) : (w.commit j).fl.line = w.fl.line := rfl
@[simp] theorem Work.onCloseOut_line (id : Nat) (f : CloseOut → CloseOut) : (w.onCloseOut id f).fl.line = w.fl.line := rfl
@[simp] theorem Work.setCond_line (n : Nat) (c : CloseCond) : (w.setCond n c).fl.line = w.fl.line := rfl
@[simp] theorem Work.enter_line (n : Nat) (s : StationState) : (w.enter x n s).fl.line = w.fl.line := rfl

/-! ## Disputes and sensing -/

@[simp] theorem Work.setDispute_line (r n : Nat) (d : Dispute) (c : SlotCause) :
    (w.setDispute x r n d c).fl.line = w.fl.line := by
  unfold Work.setDispute; simp

@[simp] theorem Work.plateMissing_line (id : Nat) : (w.plateMissing x id).fl.line = w.fl.line := by
  unfold Work.plateMissing
  split
  · rfl
  · dsimp only; split <;> simp

@[simp] theorem Work.plateFound_line (id : Nat) : (w.plateFound id).fl.line = w.fl.line := by
  unfold Work.plateFound; simp

@[simp] theorem Work.evaluateSlot_line (r n : Nat) (c : SlotCause) : (w.evaluateSlot x r n c).fl.line = w.fl.line := by
  unfold Work.evaluateSlot
  split
  · rfl
  · split <;> simp

@[simp] theorem Work.senseSlot_line (r n : Nat) (f : Sensed) : (w.senseSlot x r n f).fl.line = w.fl.line := by
  unfold Work.senseSlot
  split <;> simp

theorem senseSlots_line (r : Nat) : ∀ (ns : List Nat) (fs : List Bool) (w : Work),
    (senseSlots x r ns fs w).fl.line = w.fl.line
  | [], _, _ => rfl
  | _ :: ns, [], _ => (senseSlots_line r ns [] _).trans (Work.onSlot_line _ _ _)
  | _ :: ns, _ :: fs, _ => (senseSlots_line r ns fs _).trans (Work.senseSlot_line _ _ _)

@[simp] theorem Work.rackReport_line (r : Nat) (fs : List Bool) : (w.rackReport x r fs).fl.line = w.fl.line := by
  unfold Work.rackReport
  split
  · rfl
  · exact senseSlots_line _ _ _ _

/-! ## Marks and wear -/

theorem renderFields_line (src : MarkSource) (d : Draw) : ∀ (fs : List Field) (w : Work),
    (renderFields x src d fs w).2.fl.line = w.fl.line
  | [], _ => rfl
  | f :: fs, w => by
    unfold renderFields
    refine (renderFields_line src d fs _).trans ?_
    cases f with
    | serial c =>
      dsimp only
      split <;> simp
    | _ => rfl

theorem Work.compose_line (t : Nat) (src : MarkSource) (d : Draw) : (w.compose x t src d).2.fl.line = w.fl.line := by
  unfold Work.compose
  dsimp only
  split
  · simp
  · exact renderFields_line _ _ _ _

/-- The floor after a composition, made or blocked. -/
theorem Work.composed_line {t : Nat} {src : MarkSource} {d : Draw} {r : Composed} (h : w.compose x t src d = (r, v)) :
    v.fl.line = w.fl.line := (congrArg (·.2.fl.line) h).symm.trans (Work.compose_line _ _ _)

@[simp] theorem Work.wearThickness_line (n : Nat) : (w.wearThickness n).2.fl.line = w.fl.line := by
  unfold Work.wearThickness
  split
  · rfl
  · split
    · rfl
    · split <;> rfl

@[simp] theorem Work.chargeWear_line (n t p a : Nat) : (w.chargeWear x n t p a).2.fl.line = w.fl.line := by
  unfold Work.chargeWear; split <;> simp

/-- A burn result charged, another charged nothing. -/
@[simp] theorem Work.charged_line {c : Prop} [Decidable c] (n p a : Nat) :
    (if c then (w.wearThickness n).2.chargeWear x n (w.wearThickness n).1 p a else (false, w)).2.fl.line = w.fl.line := by
  split <;> simp

/-! ## Endings and close-out -/

@[simp] theorem Work.endJob_line (id : Nat) (o : JobOutcome) : (w.endJob x id o).fl.line = w.fl.line := by
  unfold Work.endJob Work.beginCloseOut Work.endUncut
  split <;> simp

@[simp] theorem Work.storeRequest_line (id : Nat) : (w.storeRequest x id).fl.line = w.fl.line := by
  unfold Work.storeRequest
  split
  · rfl
  · split
    · rfl
    · split
      · simp
      · split
        · rename_i hc; exact Work.created_line hc
        · rename_i hc; simpa using Work.created_line hc

@[simp] theorem Work.skeletonRequest_line (id : Nat) : (w.skeletonRequest x id).fl.line = w.fl.line := by
  unfold Work.skeletonRequest
  split
  · rfl
  · dsimp only
    split
    · split
      · rename_i hc; exact Work.created_line hc
      · rename_i hc; simpa using Work.created_line hc
    · simp

@[simp] theorem Work.beginSkeleton_line (id : Nat) : (w.beginSkeleton x id).fl.line = w.fl.line := by
  unfold Work.beginSkeleton; split <;> simp

@[simp] theorem Work.beginStore_line (id : Nat) : (w.beginStore x id).fl.line = w.fl.line := by
  unfold Work.beginStore
  split
  · rfl
  · split <;> simp

@[simp] theorem Work.partsCleared_line (id : Nat) : (w.partsCleared x id).fl.line = w.fl.line := by
  unfold Work.partsCleared; split <;> simp

@[simp] theorem Work.liftFailed_line (id : Nat) : (w.liftFailed x id).fl.line = w.fl.line := by
  unfold Work.liftFailed; split <;> simp

@[simp] theorem Work.closeOutEnd_line (id : Nat) : (w.closeOutEnd x id).fl.line = w.fl.line := by
  unfold Work.closeOutEnd; split <;> simp

@[simp] theorem Work.serveJob_line (freed : Bool) (j : Job) : (w.serveJob x freed j).fl.line = w.fl.line := by
  unfold Work.serveJob
  dsimp only
  split
  · rfl
  · split <;> simp

@[simp] theorem Work.stageByMove_line (j : Job) (k : MoveKind) (p : Place) :
    (w.stageByMove x j k p).fl.line = w.fl.line := by
  unfold Work.stageByMove
  split
  · rename_i hc; exact Work.created_line hc
  · rename_i hc; simpa using Work.created_line hc

/-! ## Claims, binding and suspension -/

@[simp] theorem Work.claimPlaces_line (m : Move) : (w.claimPlaces x m).fl.line = w.fl.line := by
  unfold Work.claimPlaces
  dsimp only
  split <;> split <;> simp

@[simp] theorem Work.releasePickup_line (m : Move) : (w.releasePickup m).fl.line = w.fl.line := by
  unfold Work.releasePickup; split <;> rfl

@[simp] theorem Work.releaseDrop_line (m : Move) : (w.releaseDrop x m).fl.line = w.fl.line := by
  unfold Work.releaseDrop Work.returnSlot; split <;> simp

@[simp] theorem Work.idleCrane_line (c : Nat) : (w.idleCrane c).fl.line = w.fl.line := rfl

@[simp] theorem Work.unbind_line (t : Nat) : (w.unbind x t).fl.line = w.fl.line := by
  unfold Work.unbind
  split
  · rfl
  · split <;> simp

@[simp] theorem Work.bind_line (t c : Nat) : (w.bind x t c).fl.line = w.fl.line := by
  unfold Work.bind; dsimp only; split <;> simp

@[simp] theorem Work.plateArrives_line (m : Move) (id : Nat) : (w.plateArrives x m id).fl.line = w.fl.line := by
  unfold Work.plateArrives; split <;> simp

@[simp] theorem Work.suspend_line (t : Nat) (c : SuspendCause) : (w.suspend x t c).fl.line = w.fl.line := by
  unfold Work.suspend
  split
  · rfl
  · split <;> simp

@[simp] theorem Work.suspendAll_line (c : SuspendCause) : (w.suspendAll x c).fl.line = w.fl.line :=
  Work.foldl_line (fun _ _ => Work.suspend_line _ _) _ _

/-! ## The health of cranes -/

@[simp] theorem Work.craneOut_line (c : Nat) (s : SuspendCause) : (w.craneOut x c s).fl.line = w.fl.line := by
  unfold Work.craneOut
  split
  · rfl
  · dsimp only
    split
    · simp
    · split <;> simp

@[simp] theorem Work.setHealth_line (c : Nat) (h : CraneHealth) : (w.setHealth x c h).fl.line = w.fl.line := by
  unfold Work.setHealth; split <;> simp

@[simp] theorem Work.craneLost_line (c : Nat) : (w.craneLost x c).fl.line = w.fl.line := by
  unfold Work.craneLost
  split
  · rfl
  · dsimp only; split <;> simp

@[simp] theorem Work.recordFault_line (c code : Nat) : (w.recordFault x c code).fl.line = w.fl.line := by
  unfold Work.recordFault; split <;> simp

@[simp] theorem Work.faultCleared_line (c : Nat) : (w.faultCleared x c).fl.line = w.fl.line := by
  unfold Work.faultCleared; simp

@[simp] theorem Work.reportFault_line (c : Nat) (s : CraneStatus) (e : Option CraneReportEvent) :
    (w.reportFault x c s e).fl.line = w.fl.line := by
  unfold Work.reportFault Work.statusFault
  dsimp only
  split <;> split <;> simp

/-! ## Reports of a station -/

@[simp] theorem Work.entryStarted_line (n i : Nat) (k : Option Phase) : (w.entryStarted x n i k).fl.line = w.fl.line := by
  unfold Work.entryStarted; split <;> simp

@[simp] theorem Work.stationFault_line (n : Nat) (f : Option Nat) : (w.stationFault x n f).fl.line = w.fl.line := by
  unfold Work.stationFault; split <;> simp

@[simp] theorem Work.partsSeen_line (n : Nat) : (w.partsSeen x n).fl.line = w.fl.line := by
  unfold Work.partsSeen
  split
  · split
    · split <;> simp
    · rfl
  · rfl

@[simp] theorem Work.tellUp_line (a : Nat) : (w.tellUp x a).fl.line = w.fl.line := by
  unfold Work.tellUp; split <;> simp

end
end Sys2Proof.Machine
end
section
/-! SUPPORT. What an event leaves of the node records: orders come and go in a node's queue, a STOP may be placed, and nothing else
of a record changes but by a miss, a report or its health (R139-R146). -/
namespace Sys2Proof.Machine

/-- What a node's record shows of the node itself: all but its queue, the numbers of its orders and the STOP. -/
def Node.vitals (n : Node) : Node := { n with stop := false, orders := [], lastAssigned := 0, unsettled := [] }

/-- What the node records show of the nodes themselves, by address. -/
def Line.vitals (l : Line) (a : Nat) : Option Node := (Table.get Node.address a l.nodes).map Node.vitals

@[simp] theorem Line.ite_vitals {c : Prop} [Decidable c] (l l' : Line) :
    (if c then l else l').vitals = if c then l.vitals else l'.vitals := by split <;> rfl

theorem Node.hand_vitals {o : Order} {n : Node} {r : Nat × Node} (h : n.hand o = some r) : r.2.vitals = n.vitals := by
  unfold Node.hand at h
  split at h
  · obtain ⟨k, _, rfl⟩ := Option.map_eq_some_iff.1 h; rfl
  · cases h

theorem Node.withdraw_vitals {k : Nat} {n m : Node} (h : n.withdraw k = some m) : m.vitals = n.vitals := by
  unfold Node.withdraw at h
  split at h
  · cases h
  · cases h; rfl

section
variable {x : Ctx} {w v : Work}

theorem Work.foldl_vitals {β : Type} {f : Work → β → Work} (hf : ∀ w b, (f w b).fl.line.vitals = w.fl.line.vitals) :
    ∀ (l : List β) (w : Work), (l.foldl f w).fl.line.vitals = w.fl.line.vitals
  | [], _ => rfl
  | b :: l, w => (Work.foldl_vitals hf l (f w b)).trans (hf w b)

/-- A change of a node's record that leaves what it shows of the node. -/
theorem Work.onNode_vitals {a : Nat} {f : Node → Node} (hf : ∀ n : Node, n.address = a → (f n).address = a)
    (hv : ∀ n, w.fl.node? a = some n → (f n).vitals = n.vitals) : (w.onNode a f).fl.line.vitals = w.fl.line.vitals := by
  funext b
  by_cases hb : b = a
  · subst hb
    refine (congrArg (Option.map Node.vitals) (Table.get_amend_self Node.address hf _)).trans ?_
    rw [Option.map_map]
    exact Option.map_congr fun n hn => hv n hn
  · exact congrArg (Option.map Node.vitals) (Table.get_amend_other Node.address hb hf _)

/-! ## Orders handed and withdrawn (R140, R143, R144) -/

theorem Work.handOrder_vitals {a : Nat} {o : Order} {r : Nat × Work} (h : w.handOrder x a o = some r) :
    r.2.fl.line.vitals = w.fl.line.vitals := by
  obtain ⟨_, n, m, hn, hm, hr⟩ := Work.handOrder_some h
  rw [hr]
  refine Work.onNode_vitals (fun _ _ => (Node.hand_address hm).trans (Table.key_of_get _ hn)) fun k hk => ?_
  cases hn.symm.trans hk
  exact Node.hand_vitals hm

theorem Work.withdrawn_vitals {a k : Nat} {m : Node} (h : (w.fl.node? a).bind (Node.withdraw k) = some m) :
    (w.onNode a fun _ => m).fl.line.vitals = w.fl.line.vitals := by
  obtain ⟨n, hn, hm⟩ := Option.bind_eq_some_iff.1 h
  refine Work.onNode_vitals (fun _ _ => (Node.withdraw_address hm).trans (Table.key_of_get _ hn)) fun k hk => ?_
  cases hn.symm.trans hk
  exact Node.withdraw_vitals hm

@[simp] theorem Work.askStop_vitals (a : Nat) : (w.askStop a).fl.line.vitals = w.fl.line.vitals :=
  Work.onNode_vitals (fun _ h => h) fun _ _ => rfl

theorem drainCrane_vitals (c : Nat) : ∀ (fuel : Nat) (w : Work), (drainCrane x c fuel w).fl.line.vitals = w.fl.line.vitals
  | 0, _ => rfl
  | fuel + 1, w => by
    unfold drainCrane
    split
    · rfl
    · split
      · rfl
      · split
        · rfl
        · rename_i hr
          exact (drainCrane_vitals c fuel _).trans (Work.handOrder_vitals hr :)

@[simp] theorem Work.craneOrder_vitals (c : Nat) (o : Order) : (w.craneOrder x c o).fl.line.vitals = w.fl.line.vitals :=
  drainCrane_vitals c 5 _

/-! ## The stations -/

@[simp] theorem Work.withdrawFrozen_vitals (n : Nat) : (w.withdrawFrozen x n).fl.line.vitals = w.fl.line.vitals := by
  unfold Work.withdrawFrozen
  split
  · rfl
  · split
    · rfl
    · rename_i hm
      exact (Work.withdrawn_vitals hm :)

@[simp] theorem Work.addReason_vitals (n : Nat) (r : HoldReason) :
    (w.addReason x n r).fl.line.vitals = w.fl.line.vitals := by
  unfold Work.addReason; split <;> simp

theorem Work.queueHead_vitals {n : Nat} {o : Order} {entry : Nat → Option InProgress} (h : w.queueHead x n o entry = some v) :
    v.fl.line.vitals = w.fl.line.vitals := by
  obtain ⟨r, hr, rfl⟩ := Option.map_eq_some_iff.1 h
  exact (Work.handOrder_vitals hr :)

theorem drainStation_vitals (n : Nat) : ∀ (fuel : Nat) (w : Work),
    (drainStation x n fuel w).fl.line.vitals = w.fl.line.vitals
  | 0, _ => rfl
  | fuel + 1, w => by
    have hnext (o : Order) (entry : Nat → Option InProgress) (u : Work) :
        (match u.queueHead x n o entry with
          | some v => drainStation x n fuel v
          | none => u).fl.line.vitals = u.fl.line.vitals := by
      split
      · rename_i hq; exact (drainStation_vitals n fuel _).trans (Work.queueHead_vitals hq)
      · rfl
    unfold drainStation
    split
    · rfl
    · split
      · rfl
      · split
        · rfl
        · split
          · split
            · rfl
            · split
              · rename_i hc; simp [Work.composed_line hc]
              · rename_i hc; exact (hnext _ _ _).trans (congrArg Line.vitals (Work.composed_line hc))
          · split
            · simp
            · exact hnext _ _ _
          · exact hnext _ _ _

@[simp] theorem Work.drain_vitals (n : Nat) : (w.drain x n).fl.line.vitals = w.fl.line.vitals := drainStation_vitals n 5 w

@[simp] theorem Work.orderIt_vitals (n : Nat) (o : Order) : (w.orderIt x n o).fl.line.vitals = w.fl.line.vitals := by
  unfold Work.orderIt; simp

@[simp] theorem Work.orderBurn_vitals (n : Nat) (j : Job) : (w.orderBurn x n j).fl.line.vitals = w.fl.line.vitals := by
  unfold Work.orderBurn
  split
  · simp
  · split <;> simp

@[simp] theorem Work.orderNext_vitals (n : Nat) : (w.orderNext x n).fl.line.vitals = w.fl.line.vitals := by
  unfold Work.orderNext
  split
  · rfl
  · split
    · rfl
    · split
      · split <;> simp
      · simp
      · rfl

@[simp] theorem Work.handJob_vitals (id : Nat) : (w.handJob x id).fl.line.vitals = w.fl.line.vitals := by
  unfold Work.handJob; split <;> simp

@[simp] theorem Work.setEmptied_vitals (n : Nat) : (w.setEmptied x n).fl.line.vitals = w.fl.line.vitals := by
  unfold Work.setEmptied Work.handReady
  split
  · rfl
  · dsimp only; split <;> simp

@[simp] theorem Work.removeReason_vitals (n : Nat) (r : HoldReason) :
    (w.removeReason x n r).fl.line.vitals = w.fl.line.vitals := by
  unfold Work.removeReason; split <;> simp

@[simp] theorem Work.afterResult_vitals (n : Nat) (limit : Bool) :
    (w.afterResult x n limit).fl.line.vitals = w.fl.line.vitals := by
  unfold Work.afterResult; split <;> simp

@[simp] theorem Work.entryResult_vitals (n : Nat) (failure : Option FailReason) (arc pierces : Nat) :
    (w.entryResult x n failure arc pierces).fl.line.vitals = w.fl.line.vitals := by
  unfold Work.entryResult
  split
  · rfl
  · split
    · rfl
    · dsimp only; split <;> simp

@[simp] theorem Work.unmatched_vitals (n index : Nat) (kind : Option Phase) (failure : Option FailReason) (arc pierces : Nat) :
    (w.unmatched x n index kind failure arc pierces).fl.line.vitals = w.fl.line.vitals := by
  unfold Work.unmatched; simp

/-! ## Grants and moves -/

@[simp] theorem Work.produceLimit_vitals (c : Nat) : (w.produceLimit x c).fl.line.vitals = w.fl.line.vitals := by
  unfold Work.produceLimit; split <;> simp

@[simp] theorem Work.setGrant_vitals (c : Nat) (g : Grant) : (w.setGrant x c g).fl.line.vitals = w.fl.line.vitals := by
  unfold Work.setGrant; simp

@[simp] theorem Work.grantMove_vitals (c : Nat) (m : Move) (g : Grant) :
    (w.grantMove x c m g).fl.line.vitals = w.fl.line.vitals := by
  unfold Work.grantMove; simp

@[simp] theorem Work.makeYield_vitals (c blocked target : Nat) :
    (w.makeYield x c blocked target).fl.line.vitals = w.fl.line.vitals := by
  unfold Work.makeYield
  split
  · rename_i hm; rw [Work.created_line hm]
  · rename_i hm; dsimp only; split <;> simp [Work.created_line hm]

@[simp] theorem Work.attemptGrant_vitals (t : Nat) : (w.attemptGrant x t).fl.line.vitals = w.fl.line.vitals := by
  unfold Work.attemptGrant
  split
  · rfl
  · split
    · rfl
    · dsimp only
      split
      · rfl
      · split
        · simp
        · split <;> simp

@[simp] theorem Work.moveEnd_vitals (m : Move) : (w.moveEnd x m).fl.line.vitals = w.fl.line.vitals := by
  have hown (c : Nat) (w : Work) : (w.ownExtent x c).fl.line.vitals = w.fl.line.vitals := by
    unfold Work.ownExtent
    split
    · rfl
    · split <;> simp
  unfold Work.moveEnd
  dsimp only
  split <;> simp [hown]

@[simp] theorem Work.yieldDone_vitals (m : Move) : (w.yieldDone x m).fl.line.vitals = w.fl.line.vitals := by
  unfold Work.yieldDone Work.retryWaiting; split <;> simp

@[simp] theorem Work.liftPassed_vitals (c : Nat) (m : Move) : (w.liftPassed x c m).fl.line.vitals = w.fl.line.vitals := by
  unfold Work.liftPassed
  dsimp only
  split
  · split
    · simp
    · split <;> split <;> simp
  · simp

@[simp] theorem Work.liftRejected_vitals (c : Nat) (m : Move) (r : FailReason) :
    (w.liftRejected x c m r).fl.line.vitals = w.fl.line.vitals := by
  unfold Work.liftRejected
  dsimp only
  rw [Work.moveEnd_vitals, Work.releaseDrop_line, Work.releasePickup_line]
  split
  · split <;> split <;> simp
  · split <;> simp
  · split <;> simp

@[simp] theorem Work.lifted_vitals (c : Nat) (m : Move) (reading : Nat) :
    (w.lifted x c m reading).fl.line.vitals = w.fl.line.vitals := by
  unfold Work.lifted
  split
  · dsimp only; split <;> simp
  · rfl

@[simp] theorem Work.stagedArrives_vitals (j : Job) : (w.stagedArrives x j).fl.line.vitals = w.fl.line.vitals := by
  unfold Work.stagedArrives; simp

@[simp] theorem Work.setDown_vitals (m : Move) : (w.setDown x m).fl.line.vitals = w.fl.line.vitals := by
  unfold Work.setDown
  dsimp only
  rw [Work.moveEnd_vitals]
  split
  · split
    · split <;> simp
    · simp
  · split <;> simp
  · simp

@[simp] theorem Work.takeEvent_vitals (c : Nat) (m : Move) (p : MovePhase) (reading : Nat) :
    (w.takeEvent x c m p reading).fl.line.vitals = w.fl.line.vitals := by
  unfold Work.takeEvent; cases p <;> simp

theorem takeEvents_vitals (c t : Nat) (s : Shown) : ∀ (fuel : Nat) (w : Work),
    (takeEvents x c t s fuel w).fl.line.vitals = w.fl.line.vitals
  | 0, _ => rfl
  | fuel + 1, w => by
    unfold takeEvents
    split
    · rfl
    · split
      · simp [takeEvents_vitals c t s fuel]
      · rfl

/-! ## Cranes resumed, lost and reported -/

@[simp] theorem Work.resumeMove_vitals (t : Nat) (p : MovePhase) :
    (w.resumeMove x t p).fl.line.vitals = w.fl.line.vitals := by
  unfold Work.resumeMove
  dsimp only
  split
  · simp
  · split <;> simp [takeEvents_vitals]

@[simp] theorem Work.unsuspend_vitals (cs : List SuspendCause) (t : Nat) :
    (w.unsuspend x cs t).fl.line.vitals = w.fl.line.vitals := by
  unfold Work.unsuspend
  split
  · rfl
  · split <;> simp

@[simp] theorem Work.craneRestored_vitals (c : Nat) : (w.craneRestored x c).fl.line.vitals = w.fl.line.vitals := by
  unfold Work.craneRestored; dsimp only; split <;> simp

@[simp] theorem Work.countGood_vitals (c : Nat) : (w.countGood x c).fl.line.vitals = w.fl.line.vitals := by
  unfold Work.countGood; split <;> simp

@[simp] theorem Work.trim_vitals (c : Nat) : (w.trim x c).fl.line.vitals = w.fl.line.vitals := by
  unfold Work.trim
  split
  · rfl
  · split <;> simp

@[simp] theorem Work.breach_vitals (c : Nat) : (w.breach x c).fl.line.vitals = w.fl.line.vitals := by
  have hstop (l : List Nat) (w : Work) : (l.foldl (fun w c =>
      (w.askStop (x.craneAddress c)).onCrane c fun k => { k with stopBreach := true }) w).fl.line.vitals
        = w.fl.line.vitals := Work.foldl_vitals (fun _ _ => by simp) l w
  unfold Work.breach
  simp [hstop]

@[simp] theorem Work.cranePosition_vitals (c p : Nat) (faulty : Bool) :
    (w.cranePosition x c p faulty).fl.line.vitals = w.fl.line.vitals := by
  unfold Work.cranePosition; split <;> simp

@[simp] theorem Work.craneReport_vitals (c : Nat) (s : CraneStatus) (e : Option CraneReportEvent) :
    (w.craneReport x c s e).fl.line.vitals = w.fl.line.vitals := by
  have hshown (w : Work) : (w.takeShown x c s e).fl.line.vitals = w.fl.line.vitals := by
    unfold Work.takeShown; split <;> simp [takeEvents_vitals]
  unfold Work.craneReport
  simp [hshown]

/-! ## What is due at an event -/

@[simp] theorem Work.examineStation_vitals (n : Nat) : (w.examineStation x n).fl.line.vitals = w.fl.line.vitals := by
  have hstage (st : Station) (j : Job) (w : Work) : (w.stage x st j).fl.line.vitals = w.fl.line.vitals := by
    unfold Work.stage Work.stageOnBed
    split
    · rfl
    · split <;> simp
  unfold Work.examineStation
  split
  · rfl
  · split <;> simp [hstage, Floor.toHead]

@[simp] theorem Work.serveStation_vitals (freed : Bool) (n : Nat) :
    (w.serveStation x freed n).fl.line.vitals = w.fl.line.vitals := by
  unfold Work.serveStation; split <;> simp

theorem offerMove_vitals (t : Nat) : ∀ (cs : List Nat) (w : Work), (offerMove x t cs w).fl.line.vitals = w.fl.line.vitals
  | [], _ => rfl
  | c :: cs, w => by
    unfold offerMove; split <;> simp [offerMove_vitals t cs]

@[simp] theorem Work.scanQueue_vitals : (w.scanQueue x).fl.line.vitals = w.fl.line.vitals := by
  refine Work.foldl_vitals (f := Work.scanMove x) (fun w t => ?_) _ w
  unfold Work.scanMove; split <;> simp [offerMove_vitals]

@[simp] theorem Work.settleOnce_vitals : (w.settleOnce x).fl.line.vitals = w.fl.line.vitals := by
  unfold Work.settleOnce
  simp [Work.foldl_vitals (f := Work.examineStation x) fun _ _ => Work.examineStation_vitals _,
    Work.foldl_vitals (f := Work.serveStation x _) fun _ _ => Work.serveStation_vitals _ _]

theorem settle_vitals : ∀ (fuel : Nat) (w : Work), (settle x fuel w).fl.line.vitals = w.fl.line.vitals
  | 0, _ => rfl
  | fuel + 1, w => by
    unfold settle; simp [settle_vitals fuel]

/-! ## What the owner of a node is told (R57, R58, R128, R146) -/

@[simp] theorem Work.tellLost_vitals (a : Nat) : (w.tellLost x a).fl.line.vitals = w.fl.line.vitals := by
  unfold Work.tellLost; split <;> simp

@[simp] theorem Work.tellRoom_vitals (a : Nat) : (w.tellRoom x a).fl.line.vitals = w.fl.line.vitals := by
  unfold Work.tellRoom; split <;> simp [drainCrane_vitals]

@[simp] theorem Work.newFinish_vitals (n : Nat) (s : StationStatus) : (w.newFinish x n s).fl.line.vitals = w.fl.line.vitals := by
  unfold Work.newFinish; dsimp only; split <;> simp

@[simp] theorem Work.linkLost_vitals (n : Nat) (e : InProgress) : (w.linkLost x n e).fl.line.vitals = w.fl.line.vitals := by
  unfold Work.linkLost
  dsimp only
  split
  · rename_i hm; simp [Work.withdrawn_vitals hm]
  · simp

@[simp] theorem Work.nodeReturn_vitals (n : Nat) (s : StationStatus) :
    (w.nodeReturn x n s).fl.line.vitals = w.fl.line.vitals := by
  unfold Work.nodeReturn
  split
  · rfl
  · dsimp only; split <;> simp

@[simp] theorem Work.stationReport_vitals (n : Nat) (s : StationStatus) (e : Option StationEvent) :
    (w.stationReport x n s e).fl.line.vitals = w.fl.line.vitals := by
  unfold Work.stationReport
  split
  · rfl
  · cases e with
    | none => simp
    | some e => cases e <;> simp

@[simp] theorem Work.handStatus_vitals (a : Nat) (r : Report) : (w.handStatus x a r).fl.line.vitals = w.fl.line.vitals := by
  unfold Work.handStatus
  dsimp only
  split
  · split <;> simp
  · split <;> simp
  · simp
  · rfl

end
end Sys2Proof.Machine
end
section
/-! SUPPORT. Which reports of the hall line are good (R135): a report whose characters are in order is judged by its content alone,
whatever follows it, and one that is cut short, spoiled, or carries another CRC is a miss. -/
namespace Sys2Proof.Machine

/-! ## Characters in order -/

theorem encCrc_injective {c d : Crc} (h : encCrc c = encCrc d) : c = d := by
  unfold encCrc enc2 at h
  simp only [List.cons.injEq, and_true] at h
  obtain ⟨hhigh, hlow⟩ := h
  have := congrArg BitVec.toNat hhigh
  have := congrArg BitVec.toNat hlow
  simp only [BitVec.toNat_ofNat] at *
  bv_omega

/-- What R135 asks of the characters of a report of `n` bytes before its CRC: as many as that with the CRC, all of them data
characters with good stop bits, and the CRC correct. -/
def inOrder (n : Nat) (used : List LineChar) : Prop :=
  used.length = n + 2 ∧ (used.all fun c => !c.address && c.stopOk) = true
    ∧ (used.map LineChar.data).drop n = encCrc (crc16 ((used.map LineChar.data).take n))

section
variable {visited i : Nat} {b : Byte} {bs : List Byte} {crc : Crc} {chars more : List LineChar}

theorem judge_inOrder (hb : (chars.map LineChar.data).head? = some b) (h : inOrder b.toNat (chars.take (b.toNat + 2))) :
    judge visited chars = (reportOf (((chars.take (b.toNat + 2)).map LineChar.data).take b.toNat)).filter
      fun r => r.address == visited := by
  cases chars with
  | nil => cases hb
  | cons c cs => cases hb; exact if_pos h

theorem judge_not_inOrder (hb : (chars.map LineChar.data).head? = some b)
    (h : ¬ inOrder b.toNat (chars.take (b.toNat + 2))) : judge visited chars = none := by
  cases chars with
  | nil => rfl
  | cons c cs => cases hb; exact if_neg h

/-! ## The characters of a report -/

/-- A content and a CRC as they go over the line. -/
def reportChars (content : List Byte) (crc : Crc) : List LineChar := lineChars (content ++ encCrc crc)

theorem reportChars_length (content : List Byte) : (reportChars content crc).length = content.length + 2 := by
  simp [reportChars, lineChars, encCrc, enc2]

theorem reportChars_data (content : List Byte) : (reportChars content crc).map LineChar.data = content ++ encCrc crc := by
  simp [reportChars, lineChars, Function.comp_def]

theorem reportChars_clean (content : List Byte) :
    ((reportChars content crc).all fun c => !c.address && c.stopOk) = true := by
  simp [reportChars, lineChars]

theorem inOrder_reportChars (content : List Byte) : inOrder content.length (reportChars content crc) ↔ crc = crc16 content := by
  unfold inOrder
  rw [reportChars_length, reportChars_data, List.drop_left, List.take_left]
  constructor
  · rintro ⟨-, -, hcrc⟩; exact encCrc_injective hcrc
  · rintro rfl; exact ⟨rfl, reportChars_clean _, rfl⟩

theorem take_chars (hn : b.toNat = (b :: bs).length) (hl : chars.length = (b :: bs).length + 2) :
    (chars ++ more).take (b.toNat + 2) = chars := by
  rw [hn, ← hl, List.take_left]

/-- A report received whole with its CRC is judged by its content. -/
theorem judge_reportChars (hn : b.toNat = (b :: bs).length) :
    judge visited (reportChars (b :: bs) (crc16 (b :: bs)) ++ more) =
      (reportOf (b :: bs)).filter fun r => r.address == visited := by
  have hused := take_chars (more := more) hn (reportChars_length (crc := crc16 (b :: bs)) (b :: bs))
  rw [judge_inOrder (b := b) rfl, hused, reportChars_data, hn, List.take_left]
  rw [hused, hn]
  exact (inOrder_reportChars _).2 rfl

/-- A report with another CRC is a miss. -/
theorem judge_wrongCrc (hn : b.toNat = (b :: bs).length) (hc : crc ≠ crc16 (b :: bs)) :
    judge visited (reportChars (b :: bs) crc ++ more) = none := by
  refine judge_not_inOrder (b := b) rfl ?_
  rw [take_chars hn (reportChars_length _), hn]
  exact mt (inOrder_reportChars _).1 hc

/-- A report cut short is a miss. -/
theorem judge_cut (hn : b.toNat = (b :: bs).length) (hi : i < (reportChars (b :: bs) crc).length) :
    judge visited ((reportChars (b :: bs) crc).take i) = none := by
  cases i with
  | zero => rfl
  | succ i =>
    refine judge_not_inOrder (b := b) rfl ?_
    rintro ⟨hlength, -⟩
    rw [reportChars_length] at hi
    rw [List.length_take, List.length_take, reportChars_length] at hlength
    omega

/-- A report with an address character or a bad stop bit among its characters is a miss. -/
theorem judge_spoiled (hn : b.toNat = (b :: bs).length) (hi : i < (reportChars (b :: bs) crc).length) {ch : LineChar}
    (hbad : ch.address = true ∨ ch.stopOk = false)
    (hdata : ch.data = (((reportChars (b :: bs) crc)[i]?).map LineChar.data).getD 0) :
    judge visited ((reportChars (b :: bs) crc).set i ch ++ more) = none := by
  have hsame : ((reportChars (b :: bs) crc).set i ch).map LineChar.data = (reportChars (b :: bs) crc).map LineChar.data := by
    have hi' : i < ((reportChars (b :: bs) crc).map LineChar.data).length := by rwa [List.length_map]
    rw [List.map_set, hdata, List.getElem?_eq_getElem hi, Option.map_some, Option.getD_some,
      ← List.getElem_map LineChar.data (h := hi'), List.set_getElem_self]
  refine judge_not_inOrder (b := b) ?_ ?_
  · rw [List.map_append, hsame]; rfl
  · rw [take_chars hn (by rw [List.length_set, reportChars_length])]
    rintro ⟨-, hclean, -⟩
    have hch := List.all_eq_true.1 hclean ch (List.mem_set hi ch)
    rcases hbad with h | h <;> simp [h] at hch

end

/-! ## The fields of a report -/

theorem reportOf_fields {kind : NodeKind} {l a k taken : Byte} {rest : List Byte} (hk : nodeKindOf k.toNat = some kind)
    (hl : kind.statusBytes ≤ rest.length) :
    reportOf (l :: a :: k :: taken :: rest) = some ⟨a.toNat, kind, taken.toNat, rest⟩ := by
  simp [reportOf, hk, hl]

/-- The length byte of a report of at most 255 bytes says how many they are. -/
theorem lengthByte_toNat {a k taken : Byte} {rest : List Byte} (h : rest.length ≤ 251) :
    (BitVec.ofNat 8 (rest.length + 4)).toNat = (BitVec.ofNat 8 (rest.length + 4) :: a :: k :: taken :: rest).length := by
  simp only [BitVec.toNat_ofNat, List.length_cons]; omega

end Sys2Proof.Machine
end
section
/-! SUPPORT. Misses and reports at a visit, and the line after it (R135, R138, R145-R147): what they make of the record of the
visited node, and what an event that ends a visit leaves. -/
namespace Sys2Proof.Machine

section
variable {x : Ctx} {w : Work}

/-! ## The record of the visited node (R142, R145, R146) -/

/-- What the record found at an address shows, after a change of it. -/
theorem Work.onNode_vitals_at {a : Nat} {f g : Node → Node} (hf : ∀ n : Node, n.address = a → (f n).address = a)
    (hg : ∀ n : Node, (f n).vitals = g n.vitals) :
    (w.onNode a f).fl.line.vitals a = (w.fl.line.vitals a).map g := by
  refine (congrArg (Option.map Node.vitals) (Table.get_amend_self Node.address hf _)).trans ?_
  unfold Line.vitals
  rw [Option.map_map, Option.map_map]
  exact Option.map_congr fun n _ => hg n

theorem Work.setNodeHealth_vitals (a : Nat) (h : NodeHealth) (c : NodeCause) (k : Option NodeKind) :
    (w.setNodeHealth x a h c k).fl.line.vitals a = (w.fl.line.vitals a).map fun n => { n with health := h } := by
  unfold Work.setNodeHealth
  split
  · rename_i hn
    unfold Line.vitals
    rw [show Table.get Node.address a w.fl.line.nodes = none from hn]; rfl
  · rename_i n hn
    split
    · rename_i hh
      unfold Line.vitals
      rw [show Table.get Node.address a w.fl.line.nodes = some n from hn, ← hh]; rfl
    · have hset := Work.onNode_vitals_at (w := w) (a := a) (f := fun n => { n with health := h })
        (g := fun n => { n with health := h }) (fun _ h => h) fun _ => rfl
      dsimp only
      split <;> simpa using hset

theorem Work.miss_vitals {a : Nat} {n : Node} (hn : w.fl.node? a = some n) :
    (w.miss x a).fl.line.vitals a = some { n.vitals with
      miss := min x.cfg.line.missLimit (n.miss + 1)
      health := if n.health = .up ∧ x.cfg.line.missLimit ≤ min x.cfg.line.missLimit (n.miss + 1) then .lost else n.health } := by
  have hfound : w.fl.line.vitals a = some n.vitals := congrArg (Option.map Node.vitals) hn
  have hcount := Work.onNode_vitals_at (w := w) (a := a) (f := fun k => { k with miss := min x.cfg.line.missLimit (n.miss + 1) })
    (g := fun k => { k with miss := min x.cfg.line.missLimit (n.miss + 1) }) (fun _ h => h) fun _ => rfl
  unfold Work.miss
  rw [hn]
  dsimp only
  split
  · rw [Work.setNodeHealth_vitals, hcount, hfound]; rfl
  · rw [hcount, hfound]; rfl

theorem Work.goodReport_vitals {v : Visit} {r : Report} {n : Node} (hn : w.fl.node? v.address = some n) :
    (w.goodReport x v r).fl.line.vitals v.address = some (
      if r.kind = n.kind then { n.vitals with miss := 0, health := .up, lastTaken := r.taken }
      else { n.vitals with miss := 0, reportedKind := some r.kind, health := .wrongKind }) := by
  have hfound : w.fl.line.vitals v.address = some n.vitals := congrArg (Option.map Node.vitals) hn
  have hcleared (w : Work) := Work.onNode_vitals_at (w := w) (a := v.address) (f := fun k => { k with miss := 0 })
    (g := fun k => { k with miss := 0 }) (fun _ h => h) fun _ => rfl
  have htaken (w : Work) := Work.onNode_vitals_at (w := w) (a := v.address) (f := Node.acknowledge v.stop r.taken)
    (g := fun k => { k with lastTaken := r.taken }) (fun _ h => h) fun _ => rfl
  have hkind (w : Work) := Work.onNode_vitals_at (w := w) (a := v.address) (f := fun k => { k with reportedKind := some r.kind })
    (g := fun k => { k with reportedKind := some r.kind }) (fun _ h => h) fun _ => rfl
  unfold Work.goodReport
  rw [hn]
  dsimp only
  split
  · rw [Work.handStatus_vitals, Work.tellRoom_vitals, htaken, Work.setNodeHealth_vitals, hcleared, hfound]; rfl
  · rw [Work.setNodeHealth_vitals, hkind, hcleared, hfound]; rfl

/-! ## The next visit (R138, R141, R147) -/

/-- A visit frame leaves what the record shows of the node. -/
theorem Node.visitFrame_vitals (hall : HallState) (n : Node) : (n.visitFrame hall).2.vitals = n.vitals := by
  unfold Node.visitFrame
  split
  · rfl
  · split
    · split <;> rfl
    · rfl

theorem nextVisit_cons {p : Nat} {ps : List Nat} {e : PollEntry} {n : Node} (he : x.cfg.poll? p = some e)
    (hn : w.fl.node? e.address = some n) : nextVisit x (p :: ps) w = w.beginVisit x n ps := by
  rw [nextVisit, he, Option.bind_some, hn]

theorem nextVisit_vitals : ∀ (ps : List Nat) (w : Work), (nextVisit x ps w).fl.line.vitals = w.fl.line.vitals
  | [], _ => rfl
  | p :: ps, w => by
    unfold nextVisit
    split
    · rename_i n hn
      obtain ⟨e, -, hn⟩ := Option.bind_eq_some_iff.1 hn
      have ha : n.address = e.address := Table.key_of_get Node.address hn
      refine Work.onNode_vitals (fun _ _ => by simp) fun k hk => ?_
      cases hn.symm.trans (ha ▸ hk)
      exact Node.visitFrame_vitals _ _
    · exact nextVisit_vitals ps w

theorem nextVisit_round : ∀ (ps : List Nat) (w : Work), (nextVisit x ps w).fl.line.round = w.fl.line.round
  | [], _ => rfl
  | p :: ps, w => by
    unfold nextVisit
    split
    · rfl
    · exact nextVisit_round ps w

/-! ## The end of a visit (R135, R138, R147) -/

theorem Work.endVisit_vitals : (w.endVisit x).fl.line.vitals = w.fl.line.vitals := by
  unfold Work.endVisit Work.lineFree
  split
  · rfl
  · exact nextVisit_vitals _ _

theorem Work.endVisit_round : (w.endVisit x).fl.line.round = w.fl.line.round := by
  unfold Work.endVisit Work.lineFree
  split
  · rfl
  · exact nextVisit_round _ _

/-- Where every entry due has its node record, the line goes on (R138, R147). -/
theorem Work.endVisit_goesOn
    (hdue : ∀ p ∈ w.fl.line.due, ∃ e n, x.cfg.poll? p = some e ∧ w.fl.node? e.address = some n) :
    Line.goesOn w.fl.line.due w.fl.line.broadcastPending (w.endVisit x).fl.line := by
  unfold Work.endVisit Work.lineFree
  refine ⟨fun hp => ?pending, fun hp p ps hd => ?visit, fun hp hd => ?gap⟩
  case pending => simp [hp]
  case visit =>
    obtain ⟨e, n, he, hn⟩ := hdue p (hd ▸ List.mem_cons_self)
    simp only [Work.onLine_line, hp, hd, Bool.false_eq_true, if_false]
    rw [nextVisit_cons he (w := w.onLine fun l => { l with visit := none }) hn]
    exact ⟨rfl, _, _, _, rfl⟩
  case gap => simp [hp, hd, nextVisit]

end

/-! ## An event that ends a visit -/

/-- An event leaves the addresses of the node records. -/
theorem Reached.node_addresses {x : Ctx} {A B Q : Prop} {fl₀ fl : Floor} (h : Reached x A B Q fl₀ fl) :
    fl.line.nodes.map Node.address = fl₀.line.nodes.map Node.address := by
  induction h with
  | start => rfl
  | nodes f hf _ ih => rw [map_key hf]; exact ih
  | _ => assumption

theorem Floor.node?_isSome (fl : Floor) (a : Nat) : (∃ n, fl.node? a = some n) ↔ a ∈ fl.line.nodes.map Node.address := by
  rw [← Option.isSome_iff_exists, Floor.node?, Table.get, List.find?_isSome]; simp

/-- A visit ends after elementary changes of the floor: the round stands, and the line goes on. -/
theorem Reached.endVisit {x : Ctx} {A B Q : Prop} {fl₀ : Floor} {w : Work} (h : Reached x A B Q fl₀ w.fl) :
    (w.endVisit x).fl.line.round = fl₀.line.round
      ∧ ((∀ p ∈ fl₀.line.due, ∃ e n, x.cfg.poll? p = some e ∧ fl₀.node? e.address = some n) →
        Line.goesOn fl₀.line.due fl₀.line.broadcastPending (w.endVisit x).fl.line) := by
  have hround : w.fl.line.round = fl₀.line.round := (congrArg Line.round h.line :)
  have hdue : w.fl.line.due = fl₀.line.due := (congrArg Line.due h.line :)
  have hpending : w.fl.line.broadcastPending = fl₀.line.broadcastPending := (congrArg Line.broadcastPending h.line :)
  refine ⟨Work.endVisit_round.trans hround, fun hpolled => ?_⟩
  rw [← hdue, ← hpending]
  refine Work.endVisit_goesOn fun p hp => ?_
  obtain ⟨e, n, he, hn⟩ := hpolled p (hdue ▸ hp)
  have haddress := (Floor.node?_isSome _ _).1 ⟨n, hn⟩
  rw [← h.node_addresses] at haddress
  obtain ⟨m, hm⟩ := (Floor.node?_isSome _ _).2 haddress
  exact ⟨e, m, he, hm⟩

/-- What an event that ends a visit leaves, and that the line goes on (R135, R138, R147). -/
def State.visitEnded (s t : State) : Prop :=
  t.pending = s.pending ∧ t.hall.cfg = s.hall.cfg ∧ t.hall.templates = s.hall.templates
    ∧ t.hall.fl.line.round = s.hall.fl.line.round
    ∧ (s.hall.polled s.hall.fl.line.due → Line.goesOn s.hall.fl.line.due s.hall.fl.line.broadcastPending t.hall.fl.line)

/-- The state after an event with an effect on the floor at which the visit ends. -/
def State.afterVisit (f : Ctx → Work → Work) (s : State) : State :=
  s.event fun h => h.onFloorThen [] f fun x w => w.endVisit x

section
variable {s : State} {f : Ctx → Work → Work}

theorem State.afterVisit_fl : (s.afterVisit f).hall.fl =
    ((settle s.hall.ctx 64 (f s.hall.ctx (Work.begin s.hall.fl))).endVisit s.hall.ctx).fl :=
  Hall.onFloorThen_fl s.hall [] f fun x w => w.endVisit x

/-- The event leaves the node records as its own effect has made them. -/
theorem State.afterVisit_vitals :
    (s.afterVisit f).hall.fl.line.vitals = (f s.hall.ctx (Work.begin s.hall.fl)).fl.line.vitals := by
  rw [State.afterVisit_fl, Work.endVisit_vitals, settle_vitals]

theorem State.afterVisit_ended (hf : Reached s.hall.ctx True False False s.hall.fl (f s.hall.ctx (Work.begin s.hall.fl)).fl) :
    s.visitEnded (s.afterVisit f) := by
  obtain ⟨hround, hgoesOn⟩ := Reached.endVisit (hf.settle 64)
  rw [← State.afterVisit_fl] at hround hgoesOn
  exact ⟨rfl, Hall.onFloorThen_cfg s.hall [] f fun x w => w.endVisit x,
    Hall.onFloorThen_templates s.hall [] f fun x w => w.endVisit x, hround, hgoesOn⟩

/-- The record at an address after the event, by what it shows of the node. -/
theorem State.afterVisit_node {a : Nat} {k : Node} (h : (f s.hall.ctx (Work.begin s.hall.fl)).fl.line.vitals a = some k) :
    ∃ n', (s.afterVisit f).hall.fl.node? a = some n' ∧ n'.vitals = k := by
  rw [← State.afterVisit_vitals] at h
  exact Option.map_eq_some_iff.1 h

end

/-! ## Misses and reports (R135, R145, R146) -/

/-- A miss counted at a node: the count up to the limit, and an UP node at the limit LOST (R145). -/
def State.missed (s : State) (a : Nat) (n : Node) (t : State) : Prop :=
  ∃ n', t.hall.fl.node? a = some n' ∧ n'.miss = min s.hall.cfg.line.missLimit (n.miss + 1)
    ∧ n'.health = if n.health = .up ∧ s.hall.cfg.line.missLimit ≤ n'.miss then .lost else n.health

section
variable {s : State} {v : Visit} {n : Node}

theorem State.reached_start (s : State) : Reached s.hall.ctx True False False s.hall.fl (Work.begin s.hall.fl).fl :=
  .start (.inl trivial) False.elim

theorem State.awaited_of_visit (hv : s.hall.fl.line.visit = some v) (ha : v.awaiting = true) : s.hall.fl.line.awaited = some v := by
  simp [Line.awaited, hv, ha]

theorem exec_replyWindowExpired (h : s.hall.fl.line.awaited = some v) :
    exec .replyWindowExpired s = .next (s.afterVisit fun x w => w.miss x v.address) := by
  show execReplyWindowExpired s = _
  unfold execReplyWindowExpired
  rw [h]; rfl

theorem exec_reportReceived (h : s.hall.fl.line.awaited = some v) (chars : List LineChar) :
    exec (.reportReceived chars) s = .next (s.afterVisit fun x w => w.takeReport x v chars) := by
  show execReportReceived chars s = _
  unfold execReportReceived
  rw [h]; rfl

/-- A miss at a visit: what the event leaves, and the record of its node (R145). -/
theorem State.miss_ends (hn : s.hall.fl.node? v.address = some n) :
    s.visitEnded (s.afterVisit fun x w => w.miss x v.address)
      ∧ s.missed v.address n (s.afterVisit fun x w => w.miss x v.address) := by
  obtain ⟨n', hn', hvitals⟩ := State.afterVisit_node (f := fun x w => w.miss x v.address) (Work.miss_vitals hn)
  have hmiss := congrArg Node.miss hvitals
  have hhealth := congrArg Node.health hvitals
  refine ⟨State.afterVisit_ended (s.reached_start.miss _), n', hn', hmiss, ?_⟩
  rw [show n'.miss = _ from hmiss]
  exact hhealth

/-- A good report at a visit: what the event leaves, and the record of its node (R146). -/
theorem State.report_ends (hn : s.hall.fl.node? v.address = some n) (r : Report) :
    s.visitEnded (s.afterVisit fun x w => w.goodReport x v r)
      ∧ ∃ n', (s.afterVisit fun x w => w.goodReport x v r).hall.fl.node? v.address = some n'
        ∧ n'.miss = 0 ∧ (r.kind = n.kind → n'.health = .up ∧ n'.lastTaken = r.taken)
        ∧ (r.kind ≠ n.kind → n'.health = .wrongKind ∧ n'.reportedKind = some r.kind) := by
  obtain ⟨n', hn', hvitals⟩ := State.afterVisit_node (f := fun x w => w.goodReport x v r) (Work.goodReport_vitals hn)
  refine ⟨State.afterVisit_ended (s.reached_start.goodReport _ _), n', hn', ?_⟩
  split at hvitals
  · rename_i hk
    exact ⟨congrArg Node.miss hvitals, fun _ => ⟨congrArg Node.health hvitals, congrArg Node.lastTaken hvitals⟩,
      fun h => absurd hk h⟩
  · rename_i hk
    exact ⟨congrArg Node.miss hvitals, fun h => absurd h hk,
      fun _ => ⟨congrArg Node.health hvitals, congrArg Node.reportedKind hvitals⟩⟩

end

/-- Settles O50: the reports that are good by their characters, and the event of a miss or of a report by what it makes of the
visited node's record and by the line that goes on. -/
theorem reportsAreJudged : Obligations.ReportsAreJudged := by
  unfold Obligations.ReportsAreJudged
  refine ⟨fun a k taken rest kind more hk hl hmost => ?judged, fun s v n hv ha hn => ?visit⟩
  case judged =>
    intro content chars
    have hlen : (BitVec.ofNat 8 (rest.length + 4)).toNat = content.length := lengthByte_toNat hmost
    have hjudge (visited : Nat) : judge visited (chars ++ more) =
        (some ⟨a.toNat, kind, taken.toNat, rest⟩ : Option Report).filter fun r => r.address == visited :=
      (judge_reportChars hlen).trans (by rw [reportOf_fields hk hl])
    refine ⟨?own, fun b hb => ?other, fun crc hcrc => judge_wrongCrc hlen hcrc, fun i hi =>
      ⟨judge_cut hlen hi, fun ch hbad hdata => judge_spoiled hlen hi hbad hdata⟩⟩
    case own => simp [hjudge]
    case other => simp [hjudge, Ne.symm hb]
  case visit =>
    have hawaited := State.awaited_of_visit hv ha
    refine ⟨⟨_, exec_replyWindowExpired hawaited, State.miss_ends hn⟩, fun chars hbad => ?miss, fun chars r hgood => ?report⟩
    case miss =>
      refine ⟨_, exec_reportReceived hawaited chars, ?_⟩
      simp only [Work.takeReport, hbad]
      exact State.miss_ends hn
    case report =>
      obtain ⟨hends, n', hn', hnode⟩ := State.report_ends hn r
      refine ⟨_, n', exec_reportReceived hawaited chars, ?_⟩
      simp only [Work.takeReport, hgood]
      exact ⟨hends, hn', hnode⟩

end Sys2Proof.Machine
end
section
/-! SUPPORT. Reading what the encodings of section 10.1 write: a reader of body bytes takes the encoding of a value from the
front of the bytes, gives the value and leaves the rest. -/
namespace Sys2Proof.Machine

/-- The reader takes the bytes `l` from the front of any bytes, and gives the value `a` (R175). -/
def Reads (p : BodyReader α) (l : List Byte) (a : α) : Prop := ∀ rest, p (l ++ rest) = some (a, rest)

/-! ## Readers put together -/

theorem reads_pure (a : α) : Reads (pure a) [] a := fun _ => rfl

/-- After a reader has taken its bytes, what follows is read by the form that goes on with its value. -/
theorem Reads.bind_iff {p : BodyReader α} {l : List Byte} {a : α} (h : Reads p l a) {f : α → BodyReader β}
    {m : List Byte} {b : β} : Reads (p >>= f) (l ++ m) b ↔ Reads (f a) m b := by
  have hstep (rest : List Byte) : (p >>= f) (l ++ (m ++ rest)) = f a (m ++ rest) := by
    show (p (l ++ (m ++ rest))).bind _ = _
    rw [h]
    rfl
  simp only [Reads, List.append_assoc, hstep]

/-- A form that ends with its last field. -/
theorem Reads.map {p : BodyReader α} {l : List Byte} {a : α} (h : Reads p l a) (g : α → β) :
    Reads (p >>= fun x => pure (g x)) l (g a) := by
  have hlast : Reads (p >>= fun x => pure (g x)) (l ++ []) (g a) := h.bind_iff.2 (reads_pure (g a))
  rwa [List.append_nil] at hlast

theorem reads_readMany {item : BodyReader α} {enc : α → List Byte} :
    ∀ {l : List α}, (∀ a ∈ l, Reads item (enc a) a) → Reads (readMany item l.length) (l.flatMap enc) l
  | [], _ => reads_pure []
  | a :: l, h => by
    obtain ⟨ha, hl⟩ := List.forall_mem_cons.1 h
    exact ha.bind_iff.2 ((reads_readMany hl).map (a :: ·))

/-! ## Numbers (section 10.1) -/

/-- One byte carries a number modulo 256. -/
theorem reads_enc1_mod (n : Nat) : Reads read1 (enc1 n) (n % 256) := fun _ => rfl

theorem reads_enc2_mod (n : Nat) : Reads read2 (enc2 n) (n % 65536) := by
  have hvalue : n % 65536 = n / 256 % 256 * 256 + n % 256 := by omega
  rw [hvalue]
  exact (reads_enc1_mod (n / 256)).bind_iff.2 ((reads_enc1_mod n).map (n / 256 % 256 * 256 + ·))

theorem reads_enc4_mod (n : Nat) : Reads read4 (enc4 n) (n % 4294967296) := by
  have hvalue : n % 4294967296 = n / 65536 % 65536 * 65536 + n % 65536 := by omega
  rw [hvalue]
  exact (reads_enc2_mod (n / 65536)).bind_iff.2 ((reads_enc2_mod n).map (n / 65536 % 65536 * 65536 + ·))

theorem reads_enc1 {n : Nat} (h : fits1 n = true) : Reads read1 (enc1 n) n := by
  have hn : n % 256 = n := Nat.mod_eq_of_lt (of_decide_eq_true h)
  simpa only [hn] using reads_enc1_mod n

theorem reads_enc2 {n : Nat} (h : fits2 n = true) : Reads read2 (enc2 n) n := by
  have hn : n % 65536 = n := Nat.mod_eq_of_lt (of_decide_eq_true h)
  simpa only [hn] using reads_enc2_mod n

theorem reads_enc4 {n : Nat} (h : fits4 n = true) : Reads read4 (enc4 n) n := by
  have hn : n % 4294967296 = n := Nat.mod_eq_of_lt (of_decide_eq_true h)
  simpa only [hn] using reads_enc4_mod n

/-! ## Texts, lists and the items of lists (sections 10.1, 10.3) -/

theorem reads_encText {t : Text} (h : fitsText t = true) : Reads readText (encText t) t := by
  have hsymbols : Reads (readMany readByte t.length) (t.flatMap fun b => [b]) t := reads_readMany fun _ _ _ => rfl
  rw [List.flatMap_singleton'] at hsymbols
  exact (reads_enc1 h).bind_iff.2 hsymbols

theorem reads_encList {item : BodyReader α} {enc : α → List Byte} {ok : α → Bool} {l : List α}
    (hitem : ∀ a, ok a = true → Reads item (enc a) a) (h : fitsList ok l = true) :
    Reads (readList item) (encList enc l) l := by
  obtain ⟨hcount, hall⟩ := Bool.and_eq_true_iff.1 h
  exact (reads_enc1 hcount).bind_iff.2 (reads_readMany fun a ha => hitem a (List.all_eq_true.1 hall a ha))

theorem reads_encRawField {f : RawField} (h : f.wellFormed = true) : Reads readField (encRawField f) f := by
  obtain ⟨kind, text, counter⟩ := f
  simp only [RawField.wellFormed, Bool.and_eq_true, Bool.or_eq_true, beq_iff_eq] at h
  obtain ⟨⟨⟨⟨hkind, htext⟩, hcounter⟩, hnoText⟩, hnoCounter⟩ := h
  refine (reads_enc1 hkind).bind_iff.2 ?_
  by_cases hliteral : kind = 0
  · have hnone : counter = 0 := hnoCounter.resolve_left (by omega)
    subst hliteral hnone
    exact (reads_encText htext).map (RawField.mk 0 · 0)
  · have hempty : text = [] := hnoText.resolve_left hliteral
    subst hempty
    by_cases hserial : kind = 6
    · subst hserial
      exact (reads_enc1 hcounter).map (RawField.mk 6 [])
    · have hnone : counter = 0 := hnoCounter.resolve_left hserial
      simpa only [if_neg hliteral, if_neg hserial, hnone] using reads_pure (RawField.mk kind [] 0)

theorem reads_encRawEntry {e : RawEntry} (h : e.wellFormed = true) : Reads readEntry (encRawEntry e) e := by
  simp only [RawEntry.wellFormed, Bool.and_eq_true] at h
  obtain ⟨⟨⟨⟨hkind, hpart⟩, htemplate⟩, harea⟩, hpierces⟩ := h
  simp only [encRawEntry, List.append_assoc]
  exact (reads_enc1 hkind).bind_iff.2 <| (reads_encText hpart).bind_iff.2 <| (reads_enc1 htemplate).bind_iff.2 <|
    (reads_enc4 harea).bind_iff.2 <| (reads_enc1 hpierces).map (RawEntry.mk e.kind e.partNo e.template e.area)

end Sys2Proof.Machine
end
section
/-! SUPPORT. The body of a request is of its code's form, and its fields are read as they were written (R175, section
10.3). -/
namespace Sys2Proof.Machine

/-! ## A form field by field -/

section
variable {l : List Byte} {b : β}

theorem reads_enc1_then {n : Nat} {f : Nat → BodyReader β} (h : fits1 n = true) :
    Reads (read1 >>= f) (enc1 n ++ l) b ↔ Reads (f n) l b := (reads_enc1 h).bind_iff

theorem reads_enc2_then {n : Nat} {f : Nat → BodyReader β} (h : fits2 n = true) :
    Reads (read2 >>= f) (enc2 n ++ l) b ↔ Reads (f n) l b := (reads_enc2 h).bind_iff

theorem reads_enc4_then {n : Nat} {f : Nat → BodyReader β} (h : fits4 n = true) :
    Reads (read4 >>= f) (enc4 n ++ l) b ↔ Reads (f n) l b := (reads_enc4 h).bind_iff

theorem reads_encText_then {t : Text} {f : Text → BodyReader β} (h : fitsText t = true) :
    Reads (readText >>= f) (encText t ++ l) b ↔ Reads (f t) l b := (reads_encText h).bind_iff

end

/-! ## Bodies of requests -/

/-- A body of its code's form decodes to the request that the form gives. -/
theorem decodeRequest_of_reads {code tag : Nat} {form : BodyReader (Option Instr)} {body : List Byte} {c : Instr}
    (hform : bodyForm code tag = some form) (htag : tagOk tag = true) (h : Reads form (body ++ []) (some c)) :
    decodeRequest code tag body = .ok c := by
  have hread : form body = some (some c, []) := by simpa using h []
  have hzero : tag ≠ 0 := by rintro rfl; cases htag
  simp only [decodeRequest, hform, if_neg hzero, hread]

/-- An action other than ACCEPT_EMPTY and RECHECK is handed on with its value (R34). -/
theorem reconcileSlot_other {tag rack slot action : Nat} (hempty : action ≠ 1) (hrecheck : action ≠ 2) :
    reconcileSlot tag rack slot action = .acceptObject tag rack slot action := by
  unfold reconcileSlot
  split
  · exact absurd rfl hempty
  · exact absurd rfl hrecheck
  · rfl

/-- Settles O11: each form reads its request's fields in the order in which the body has them. -/
theorem everyRequestDecodesFromItsBody : Obligations.EveryRequestDecodesFromItsBody := by
  unfold Obligations.EveryRequestDecodesFromItsBody
  intro c tag h htag
  cases c with
  | readHall | getStatus | identify | readMoves | runwayResume =>
    cases htag
    exact decodeRequest_of_reads rfl h (reads_pure _)
  | commitSetup | start | hold | resume | freeze | clearFreeze | reconfigure | clearRegister =>
    cases htag
    exact decodeRequest_of_reads rfl h ((reads_enc1 rfl).bind_iff.2 (reads_pure _))
  | setRunway _ length separation scrap bayCount bays =>
    cases htag
    simp only [Instr.wellFormed, Bool.and_eq_true] at h
    obtain ⟨hfields, hbays⟩ := h
    refine decodeRequest_of_reads rfl (by simp only [hfields]) ?_
    simp only [requestBody, List.append_assoc, reads_enc1_then, reads_enc4_then, hfields]
    exact (reads_encList (fun _ => reads_enc4) hbays).bind_iff.2 (reads_pure _)
  | setNotices _ enable disable =>
    cases htag
    simp only [Instr.wellFormed, Bool.and_eq_true] at h
    obtain ⟨⟨htag, henable⟩, hdisable⟩ := h
    refine decodeRequest_of_reads rfl htag ?_
    simp only [requestBody, List.append_assoc]
    exact (reads_encList (fun _ => reads_enc1) henable).bind_iff.2 <|
      (reads_encList (fun _ => reads_enc1) hdisable).bind_iff.2 (reads_pure _)
  | defineTemplate _ template fieldCount fields =>
    cases htag
    simp only [Instr.wellFormed, Bool.and_eq_true, beq_iff_eq] at h
    obtain ⟨⟨hnumbers, rfl⟩, hall⟩ := h
    refine decodeRequest_of_reads rfl (by simp only [hnumbers]) ?_
    simp only [requestBody, List.append_assoc, reads_enc1_then, hnumbers]
    exact (reads_readMany fun f hf => reads_encRawField (List.all_eq_true.1 hall f hf)).bind_iff.2 (reads_pure _)
  | admitJob _ job station plate nest policy expedite code count declared len wid corner nl nw entries =>
    cases htag
    simp only [Instr.wellFormed, Bool.and_eq_true, beq_iff_eq] at h
    obtain ⟨⟨hnumbers, rfl⟩, hall⟩ := h
    refine decodeRequest_of_reads rfl (by simp only [hnumbers]) ?_
    simp only [requestBody, List.append_assoc, reads_enc1_then, reads_enc2_then, hnumbers]
    exact (reads_readMany fun e he => reads_encRawEntry (List.all_eq_true.1 hall e he)).bind_iff.2 (reads_pure _)
  | acceptEmpty | recheck =>
    cases htag
    simp only [Instr.wellFormed, Bool.and_eq_true] at h
    refine decodeRequest_of_reads rfl (by simp only [h]) ?_
    simp only [requestBody, List.append_assoc, reads_enc1_then, h]
    exact (reads_enc1 rfl).bind_iff.2 (reads_pure _)
  | acceptObject _ rack slot action =>
    cases htag
    simp only [Instr.wellFormed, Bool.and_eq_true, bne_iff_ne] at h
    obtain ⟨⟨hfields, hempty⟩, hrecheck⟩ := h
    refine decodeRequest_of_reads rfl (by simp only [hfields]) ?_
    simp only [requestBody, List.append_assoc, reads_enc1_then, hfields, reconcileSlot_other hempty hrecheck]
    exact reads_pure _
  | setGrade | setLimits | setStation | setCrane | setRack | setLine | setPoll | registerPlate | readPlate | releasePlate
  | removePlate | placeRemnant | readRack | findStock | stationHold | stationResume | consumablesChanged | readStation
  | readTemplate | setCounter | readCounter | readJob | readQueue | cancelJob | scrapRemnant | skeletonManual | submitMove
  | cancelMove | readMove | readCrane | restoreCrane | readNode =>
    cases htag
    simp only [Instr.wellFormed, Bool.and_eq_true] at h
    refine decodeRequest_of_reads rfl (by simp only [h]) ?_
    simp only [requestBody, List.append_assoc, reads_enc1_then, reads_enc2_then, reads_enc4_then, reads_encText_then, h]
    exact reads_pure _
  | _ => cases htag

end Sys2Proof.Machine
end
section
/-! SUPPORT. The range check of each request (R175): the first field outside its range is refused before anything else of the
request is looked at. -/
namespace Sys2Proof.Machine

/-- A field outside its range is refused, whatever the request would have answered. -/
theorem Hall.checked_fail {h : Hall} {tests : List Bool} {n : Nat} (hbad : firstBad tests = some n) (a : Answer) :
    h.checked tests a = ⟨.refused .outOfRange (.field n), h, []⟩ := by
  unfold Hall.checked
  rw [hbad]
  rfl

section
variable {s : State} {c : Instr} {tag n : Nat} {f : Hall → Answer} {tests : List Bool} {a : Answer}

/-- A request served in every hall state, whose block begins with the range check. -/
theorem State.refuses_outOfRange (ht : s.onTurn c) (he : exec c s = .next (s.serveHall c tag f))
    (hf : f s.hall = s.hall.checked tests a) (hbad : firstBad tests = some n) :
    s.refuses c tag .outOfRange (.field n) :=
  State.answers_of ht he (hf.trans (Hall.checked_fail hbad a))

/-- A request whose block asks for the hall state first and makes the range check next. -/
theorem State.refuses_outOfRange_whenIn {accepted : List HallState} (ht : s.onTurn c)
    (he : exec c s = .next (s.serveHall c tag f)) (hf : f s.hall = s.hall.whenIn accepted (s.hall.checked tests a))
    (hm : s.hall.sup.state ∈ accepted) (hbad : firstBad tests = some n) :
    s.refuses c tag .outOfRange (.field n) :=
  State.refuses_outOfRange ht he (hf.trans (Hall.whenIn_mem hm _)) hbad

end

/-- Settles O15: the requests with a range check make it first, or right after the test of the hall state; the others have no
field that could fail. -/
theorem firstFieldOutsideItsRangeIsRefused : Obligations.FirstFieldOutsideItsRangeIsRefused := by
  unfold Obligations.FirstFieldOutsideItsRangeIsRefused
  intro c tag n s htag ht hm hbad
  cases c with
  | setGrade | setRunway | setLimits | setStation | setCrane | setRack | setLine | setPoll | registerPlate | placeRemnant
  | defineTemplate | setCounter | admitJob | submitMove | cancelMove =>
    cases htag
    exact State.refuses_outOfRange_whenIn ht rfl rfl hm hbad
  | findStock | readTemplate | readCounter | readMove =>
    cases htag
    exact State.refuses_outOfRange ht rfl rfl hbad
  | _ => cases hbad

end Sys2Proof.Machine
end
section
/-! SUPPORT. The step takes its command from the front of the queue (notes/assumptions 5). -/
namespace Sys2Proof.Machine

/-- Settles O1: the front of the queue decides which branch of `step` is taken, and a waiting command takes the first. -/
theorem stepRunsTheFrontCommand : Obligations.StepRunsTheFrontCommand := by
  unfold Obligations.StepRunsTheFrontCommand
  intro c rest s hfront
  unfold step
  rw [hfront]

end Sys2Proof.Machine
end
